-- ==== Sys2Proof/Word.lean ====
section
/-! DEFINITION. The words, numbers and names the PF-420 is described in (spec file 00, file 01 R2, file 11). -/

namespace Sys2Proof

/-- A 32-bit word of the management port or of a link message. -/
abbrev Word := BitVec 32

/-- A value of the Directory Clock's tick counter; it wraps (R141). -/
abbrev Tick := BitVec 32

/-- A 40-bit agent address or shared-memory (target) address. -/
abbrev Addr := BitVec 40

/-- An agent, 0–7; agent k uses port k. -/
abbrev Agent := Fin 8

/-- A slot of the Window Table, 0–127 (R1). -/
abbrev SlotId := Fin 128

/-- A command tag, 0–255. -/
abbrev Tag := BitVec 8

/-- A handle the PF-420 builds: generation × 128 + slot, 0–32767 (R2). -/
abbrev Handle := BitVec 15

/-- A tick resolution code: 0: 1 µs, 1: 4 µs, 2: 16 µs, 3: 64 µs (R186). -/
abbrev Resolution := BitVec 2

/-- All agents, ascending. -/
abbrev allAgents : List Agent := List.finRange 8

/-- All slots, ascending. -/
abbrev allSlots : List SlotId := List.finRange 128

end Sys2Proof
end

