-- ==== Sys2Proof/Syntax.lean ====
section
/-! DEFINITION. The commands: one constructor per row of spec/opcode_table.json. A command is an event that reaches the block
(file 00, Conventions, Events). Operands are what the event carries beside the block's own state: a request's kind and fields
are in its port, a command's kind, tag and PARAM words in the Command Queue. -/

namespace Sys2Proof

inductive Instr where
  /-- REQUEST_ACCEPTED (R43, R44): agent k's link offers port k a whole request message, 64 bits, first word lowest (R196). -/
  | requestAccepted (k : Agent) (message : BitVec 64)
  /-- FETCH (R63): the Decision Unit takes the selected port's request, a FETCH. -/
  | fetch
  /-- SHARE (R64). -/
  | share
  /-- CLAIM (R64). -/
  | claim
  /-- STORE (R63). -/
  | store
  /-- RELEASE (R65). -/
  | release
  /-- PIN (R76). -/
  | pin
  /-- UNPIN (R78). -/
  | unpin
  /-- WITHDRAW (R83). -/
  | withdraw
  /-- VERDICT_RETURNED (R43): the verdict held by port k reaches its agent. -/
  | verdictReturned (k : Agent)
  /-- NOTICE_TAKEN (R35): agent k takes the notice offered on its channel. -/
  | noticeTaken (k : Agent)
  /-- RECALL_DEADLINE (R105): the deadline of Outstanding agent k passes in the context of slot i. -/
  | recallDeadline (i : SlotId) (k : Agent)
  /-- RESERVATION_LAPSE (R91): the expiry of the reservation of slot i passes. -/
  | reservationLapse (i : SlotId)
  /-- IDLE_DEADLINE (R146): the idle deadline of slot i passes. -/
  | idleDeadline (i : SlotId)
  /-- CLOCK_ADVANCE (R141): one tick length has elapsed. -/
  | clockAdvance
  /-- OPEN (R17): the Command Engine takes the oldest queued entry, an OPEN. -/
  | openWindow
  /-- QUERY (R18). -/
  | query
  /-- QUERY_ADDR (R19). -/
  | queryAddr
  /-- REVISE (R121). -/
  | revise
  /-- RETIRE (R132). -/
  | retire
  /-- WATCH (R150). -/
  | watch
  /-- ABORT (R182). -/
  | abort
  /-- AGENT_ADMIT (R27). -/
  | agentAdmit
  /-- AGENT_SET (R28). -/
  | agentSet
  /-- AGENT_QUERY (R29). -/
  | agentQuery
  /-- AGENT_DETACH (R157). -/
  | agentDetach
  /-- AGENT_FENCE (R166). -/
  | agentFence
  /-- UNKNOWN_COMMAND (R178): the Command Engine takes an entry whose kind names no command. -/
  | unknownCommand
  /-- COMPLETION_POP (R184): a write to COMPLETION_POP; the value written is ignored. -/
  | completionPop (value : Word)
  /-- CLOCK_RESOLUTION_SET (R142): a CONTROL write with DIRECTORY_RESET 0 and this resolution field. -/
  | clockResolutionSet (resolution : Resolution)
  /-- DIRECTORY_RESET (R187): a CONTROL write with DIRECTORY_RESET 1 and this resolution field (R186). -/
  | directoryReset (resolution : Resolution)
  /-- INT_ENABLE_WRITE (R192). -/
  | intEnableWrite (value : Word)
  /-- ALERT_STATUS_CLEAR (R191). -/
  | alertStatusClear (value : Word)
  /-- ALERT_AGENTS_CLEAR (R191). -/
  | alertAgentsClear (value : Word)
  /-- REGISTER_WRITE (R172): a write of `value` to the register at offset 4 × `index`. -/
  | registerWrite (index : BitVec 5) (value : Word)
  /-- AGENT_RESET (R169): agent k's reset line is asserted. -/
  | agentReset (k : Agent)
  /-- POWER_ON (R20). -/
  | powerOn
  /-- BAD_REQUEST (R51): the Decision Unit takes a request whose kind code names no kind. -/
  | badRequest
  deriving DecidableEq, Repr

end Sys2Proof
end

