-- ==== Sys2Proof/Config.lean ====
section
/-! DEFINITION. What an implementation of the PF-420 fixes: its capacities (file 00, Capacities at a glance), and the free
value: the orders the spec leaves open, opaque, so that no proof can lean on them (log 9). -/

namespace Sys2Proof.Config

/-- Places of a Notice Queue (R34). -/
abbrev noticePlaces : Nat := 4

/-- Places of the Command Queue (R176). -/
abbrev commandPlaces : Nat := 4

/-- Places of the Parked List and the Completion Queue together (R177). -/
abbrev resultPlaces : Nat := 16

/-- A pin count's limit (R75). -/
abbrev pinLimit : BitVec 4 := 15

/-- How far behind now a Last Grant may lie, in ticks (R144). -/
abbrev lastGrantReach : Nat := 65536

/-- FREE VALUE (log 9): the n-th choice of an order that the spec does not state. -/
opaque freeChoice : Nat → Nat

end Sys2Proof.Config
end

