-- ==== Sys2Proof/Machine/State.lean ====
section
/-! DEFINITION. The state of the PF-420: every record, queue, register and counter the spec names, as plain data, and the
state right after power-on (R20, R41, R69, R93, R119, R141, R188, R194). -/

namespace Sys2Proof.Machine

/-! ### Values of the window record (file 01) -/

/-- The right of one agent in one window (R6). -/
inductive Right where
  | none | read | write
  deriving DecidableEq, Repr

/-- The level at which an agent keeps a cached copy (R70). -/
inductive Holding where
  | none | shared | owner
  deriving DecidableEq, Repr

/-- A level to which a holding is lowered: a recall's target (R94) or a RELEASE's Level (R44). -/
inductive Level where
  | none | shared
  deriving DecidableEq, Repr

/-- The kinds of request that read or write through a window (R44). -/
inductive AccessKind where
  | fetch | share | claim | store
  deriving DecidableEq, Repr

/-- The field set of a window (R5). -/
structure FieldSet where
  agentBase : Addr
  size : BitVec 6
  targetBase : Addr
  rights : Vector Right 8
  cacheable : Bool
  adviseRo : Bool
  tag : BitVec 2
  idleLimit : BitVec 16
  deriving DecidableEq, Repr

/-- A tick value that a record waits on (R143). `due`: the last advance of the counter made it pass, and the passing has not
been taken yet (log 5). -/
structure Timer where
  value : Tick
  due : Bool
  deriving DecidableEq, Repr

/-- An entry of a waiter list (R80). -/
structure Waiter where
  agent : Agent
  wanted : AccessKind
  deriving DecidableEq, Repr

/-- A reservation (R88). -/
structure Reservation where
  agent : Agent
  expiry : Timer
  deriving DecidableEq, Repr

/-- A pending revision (R120). -/
structure PendingRevision where
  fields : FieldSet
  force : Bool
  tag : Tag
  deriving DecidableEq, Repr

/-- Where an Outstanding agent's RECALL stands (R103). -/
inductive NoticeStatus where
  | unsent | held | taken
  deriving DecidableEq, Repr

/-- What a recall context holds for an Outstanding agent (R94). `awaitsVerdict`: the agent entered the set by its own UNPIN, whose
verdict it has not been returned yet, so its RECALL may not reach it (R79; log 29). -/
structure Wait where
  retriesUsed : Nat
  deadline : Timer
  notice : NoticeStatus
  awaitsVerdict : Bool
  deriving DecidableEq, Repr

/-- An agent's place in a recall context: in neither set, Blocked, or Outstanding with its wait. The sets never share an
agent, and a wait exists exactly while the agent is Outstanding (R94). -/
inductive Membership where
  | neither
  | blocked
  | outstanding (wait : Wait)
  deriving DecidableEq, Repr

/-- A recall context (R94). The cause DETACH is present while `detachAgents` is not empty (R94, R95). -/
structure RecallContext where
  waiter : Bool
  idle : Bool
  revision : Bool
  retire : Bool
  detachAgents : Vector Bool 8
  force : Bool
  targets : Vector (Option Level) 8
  members : Vector Membership 8
  forcedCount : BitVec 8
  deriving DecidableEq, Repr

/-- A watch (R149). -/
structure Watch where
  agents : BitVec 8
  reads : Bool
  writes : Bool
  tag : Tag
  deriving DecidableEq, Repr

/-- The record of a window that is not FREE: field set, per-agent state, optional parts (R5, R8, R9, R10, R145). -/
structure Window where
  fields : FieldSet
  lastGrant : Tick
  idle : Option Timer
  holdings : Vector Holding 8
  pins : Vector (BitVec 4) 8
  waiters : List Waiter
  reservation : Option Reservation
  revision : Option PendingRevision
  context : Option RecallContext
  watch : Option Watch
  retireTag : Option Tag
  deriving DecidableEq, Repr

/-- A slot of the Window Table; FREE is the absence of a record (R1). -/
structure Slot where
  generation : BitVec 8
  window : Option Window
  deriving DecidableEq, Repr

/-- The states of a window record (R11); computed by `Slot.state` (log 6). -/
inductive WindowState where
  | free | opened | recalling | revising | retiring
  deriving DecidableEq, Repr

/-! ### The agent record (file 02) -/

/-- The states of an agent record (R24). -/
inductive AgentState where
  | offline | online | detaching | fenced
  deriving DecidableEq, Repr

/-- Treatment of an access whose address matches no window (R26). -/
inductive UnmatchedPolicy where
  | deny | pass
  deriving DecidableEq, Repr

/-- The five settings of an agent record (R26). -/
structure Settings where
  timeoutSelect : BitVec 2
  retries : BitVec 2
  fenceThreshold : BitVec 8
  unmatched : UnmatchedPolicy
  reservationHold : BitVec 8
  deriving DecidableEq, Repr

/-- The fields a REVOKED notice and a Revoked Backlog entry carry (R33, R39). -/
structure NoticeFields where
  handle : Handle
  agentBase : Addr
  size : BitVec 6
  deriving DecidableEq, Repr

/-- The kind of a notice; a RECALL carries a level (R33). -/
inductive NoticeKind where
  | recall (level : Level)
  | revoked
  deriving DecidableEq, Repr

/-- A notice (R33). -/
structure Notice where
  kind : NoticeKind
  fields : NoticeFields
  deriving DecidableEq, Repr

/-- The detach in progress of a DETACHING agent (R155). -/
structure DetachInProgress where
  tag : Tag
  forced : Nat
  deriving DecidableEq, Repr

/-- An agent record (R23). -/
structure AgentRecord where
  state : AgentState
  settings : Settings
  faultScore : BitVec 8
  holdingCount : Nat
  notices : List Notice
  backlog : List NoticeFields
  detach : Option DetachInProgress
  deriving DecidableEq, Repr

/-! ### Requests, verdicts and ports (file 03) -/

/-- A request as the port accepted it, its fields uninterpreted (R44, R196). -/
structure Request where
  address : Addr
  kind : BitVec 4
  level : BitVec 2
  length : BitVec 13
  deriving DecidableEq, Repr

/-- The reasons of a RETRY (R48). -/
inductive RetryReason where
  | recalling | queued | reserved | revising
  deriving DecidableEq, Repr

/-- The reasons of a DENY (R48). -/
inductive DenyReason where
  | offline | fenced | detaching | noWindow | crosses | noRight | retiring | notHolder | pinLimit | badRequest
  deriving DecidableEq, Repr

/-- The four answers, with the reason where one is carried (R47, R48). -/
inductive Decision where
  | grant
  | pass
  | retry (reason : RetryReason)
  | deny (reason : DenyReason)
  deriving DecidableEq, Repr

/-- A verdict (R47). -/
structure Verdict where
  decision : Decision
  target : Addr
  holding : Holding
  uncached : Bool
  adviseRo : Bool
  tag : BitVec 2
  handle : Handle
  deriving DecidableEq, Repr

/-- The request side of a port (R43). -/
inductive Port where
  | empty
  | waiting (request : Request)
  | answering (verdict : Verdict)
  deriving DecidableEq, Repr

/-- The response lane of an agent link: the messages last received by the agent (R196; log 8). -/
structure Lane where
  verdict : Option (BitVec 96)
  notice : Option (BitVec 96)
  deriving DecidableEq, Repr

/-! ### The Command Engine (file 09) -/

/-- An entry of the Command Queue (R176). -/
structure Entry where
  kind : BitVec 4
  tag : Tag
  params : Vector Word 8
  deriving DecidableEq, Repr

/-- What a parked command is and what it waits on (R180). -/
inductive ParkedWork where
  | revise (i : SlotId)
  | retire (i : SlotId)
  | watch (i : SlotId)
  | detach (k : Agent)
  deriving DecidableEq, Repr

/-- An entry of the Parked List (R180). -/
structure Parked where
  tag : Tag
  work : ParkedWork
  deriving DecidableEq, Repr

/-- The statuses a completion record carries (R185). -/
inductive Status where
  | done | aborted | superseded | windowGone | agentLost
  | tableFull | overlap | misaligned | badSize | badField | staleHandle | busy | retiring | tagInUse | notFound
  | notAbortable | badState | unknownCommand
  deriving DecidableEq, Repr

/-- A completion record (R183): tag, kind code and status make word 0. -/
structure Record where
  tag : Tag
  kind : BitVec 4
  status : Status
  word1 : Word
  word2 : Word
  word3 : Word
  word4 : Word
  word5 : Word
  deriving DecidableEq, Repr

/-! ### The Alert Unit (file 10) -/

/-- The four alert bits and the three agent masks (R189). -/
structure Alerts where
  forcedRevoke : Bool
  fenced : Bool
  agentReset : Bool
  commandOverrun : Bool
  forcedRevokeAgents : BitVec 8
  fencedAgents : BitVec 8
  agentResetAgents : BitVec 8
  deriving DecidableEq, Repr

/-- The five interrupt enables (R192). -/
structure Enables where
  completion : Bool
  forcedRevoke : Bool
  fenced : Bool
  agentReset : Bool
  commandOverrun : Bool
  deriving DecidableEq, Repr

/-! ### The whole -/

/-- The records that recalls, commands and agent loss act on together: the Window Table, the Agent Table, the Command
Engine's results and the alerts. `choices` counts the free orders used (log 14). -/
structure Directory where
  slots : Vector Slot 128
  agents : Vector AgentRecord 8
  parked : List Parked
  completions : List Record
  alerts : Alerts
  choices : Nat
  deriving DecidableEq, Repr

/-- The machine. `pending` is the queue of events waiting, first in, first out (log 2). -/
structure State where
  directory : Directory
  ports : Vector Port 8
  lanes : Vector Lane 8
  pointer : Agent
  clock : Tick
  resolution : Resolution
  params : Vector Word 8
  commandQueue : List Entry
  enables : Enables
  pending : List Instr
  deriving DecidableEq, Repr

/-- Why a step stops with a fault: never. The spec gives every event an effect; DENY, RETRY, refusal statuses and alerts are
values of the state. -/
inductive Fault where
  deriving DecidableEq, Repr

/-- Why a step has no meaning. -/
inductive Refusal where
  /-- Raised by an arm of `exec` for a command that has no meaning yet; no arm does. Safe. -/
  | notModelled (mnemonic : String)
  deriving DecidableEq, Repr

/-- An agent record after power-on and directory reset (R41). -/
def AgentRecord.initial : AgentRecord :=
  { state := .offline
    settings := { timeoutSelect := 0, retries := 0, fenceThreshold := 0, unmatched := .deny, reservationHold := 1 }
    faultScore := 0
    holdingCount := 0
    notices := []
    backlog := []
    detach := none }

/-- All alert bits and masks clear (R194). -/
def Alerts.clear : Alerts :=
  { forcedRevoke := false, fenced := false, agentReset := false, commandOverrun := false,
    forcedRevokeAgents := 0, fencedAgents := 0, agentResetAgents := 0 }

/-- All enables off (R194). -/
def Enables.off : Enables :=
  { completion := false, forcedRevoke := false, fenced := false, agentReset := false, commandOverrun := false }

/-- Every slot FREE with generation 0, every agent record initial, no command parked or completed, no alert (R20, R41, R188). -/
def Directory.initial : Directory :=
  { slots := Vector.replicate 128 { generation := 0, window := none }
    agents := Vector.replicate 8 AgentRecord.initial
    parked := []
    completions := []
    alerts := Alerts.clear
    choices := 0 }

/-- The machine right after power-on (R20, R41, R69, R141, R188, R194). -/
def State.reset : State :=
  { directory := Directory.initial
    ports := Vector.replicate 8 .empty
    lanes := Vector.replicate 8 { verdict := none, notice := none }
    pointer := 7
    clock := 0
    resolution := 1
    params := Vector.replicate 8 0
    commandQueue := []
    enables := Enables.off
    pending := [] }

end Sys2Proof.Machine
end

