-- ==== Sys2Proof/Machine/Ops.lean ====
section
/-! DEFINITION. The named operations over the records: table entries, levels, ticks, windows, agent records, completion
records and free orders. Everything above this file changes the state through them. -/

namespace Sys2Proof.Machine

/-! ### Table entries -/

/-- Entry `i` of a table of fixed length. -/
def look {α : Type} {n : Nat} (v : Vector α n) (i : Fin n) : α := v.get i

/-- The table with entry `i` replaced. -/
def put {α : Type} {n : Nat} (v : Vector α n) (i : Fin n) (x : α) : Vector α n := v.set i.val x i.isLt

/-! ### Levels (R70, R94) -/

/-- NONE < SHARED < OWNER. -/
def Holding.rank : Holding → Nat
  | .none => 0
  | .shared => 1
  | .owner => 2

/-- SHARED or OWNER: the agent is a holder. -/
def Holding.held : Holding → Bool
  | .none => false
  | .shared | .owner => true

/-- The holding a level names. -/
def Level.holding : Level → Holding
  | .none => .none
  | .shared => .shared

/-- The holding is more than the level. -/
def Holding.above (h : Holding) (l : Level) : Bool := decide (l.holding.rank < h.rank)

/-- The holding lowered to the level, if the level is below it (R65, R109; log 15). -/
def Holding.lowered (h : Holding) (l : Level) : Holding := if h.above l then l.holding else h

/-- The stronger of a present target and a level: NONE is stronger than SHARED, any level than "not targeted" (R99). -/
def strengthen (present : Option Level) (l : Level) : Level :=
  match present with
  | some .none => .none
  | some .shared | none => l

/-! ### Ticks (R143) -/

/-- The tick value has been reached at `now`. -/
def reached (now t : Tick) : Bool := decide ((now - t).toNat < 2 ^ 31)

/-- A tick value set at `now`, `ticks` ahead; it passes at a later advance. -/
def timer (now ticks : Tick) : Timer := { value := now + ticks, due := false }

/-! ### Saturating counts (R30, R94) -/

/-- An 8-bit count raised by `n`, held at 255. -/
def raised (x : BitVec 8) (n : Nat) : BitVec 8 := BitVec.ofNat 8 (min 255 (x.toNat + n))

/-- An 8-bit count lowered by 1, held at 0. -/
def loweredByOne (x : BitVec 8) : BitVec 8 := BitVec.ofNat 8 (x.toNat - 1)

/-! ### Handles (R2) -/

/-- generation × 128 + slot. -/
def handleOf (generation : BitVec 8) (i : SlotId) : Handle := BitVec.ofNat 15 (generation.toNat * 128 + i.val)

/-- The slot part of a handle: handle modulo 128. -/
def handleSlot (h : Nat) : SlotId := ⟨h % 128, Nat.mod_lt _ (by decide)⟩

/-- The generation part of a handle: handle divided by 128. -/
def handleGeneration (h : Nat) : BitVec 8 := BitVec.ofNat 8 (h / 128)

/-- The slot of the window a notice is for (R34). -/
def Notice.slot (n : Notice) : SlotId := handleSlot n.fields.handle.toNat

/-- The slot that keys a Revoked Backlog entry (R39). -/
def NoticeFields.slot (n : NoticeFields) : SlotId := handleSlot n.handle.toNat

/-! ### Recall contexts (R94, R95) -/

/-- DETACH is among the Causes while Detach Agents is not empty. -/
def RecallContext.detach (c : RecallContext) : Bool := allAgents.any (look c.detachAgents)

/-- No cause is left. -/
def RecallContext.causeless (c : RecallContext) : Bool :=
  !(c.waiter || c.idle || c.revision || c.retire || c.detach)

/-- The agent is in the Outstanding set. -/
def Membership.isOutstanding : Membership → Bool
  | .outstanding _ => true
  | .neither | .blocked => false

/-- The agent is in the Blocked set. -/
def Membership.isBlocked : Membership → Bool
  | .blocked => true
  | .neither | .outstanding _ => false

/-- The agent is in one of the two sets. -/
def Membership.isMember (m : Membership) : Bool := m.isOutstanding || m.isBlocked

/-- One of the two sets is not empty. -/
def RecallContext.waits (c : RecallContext) : Bool := allAgents.any fun k => (look c.members k).isMember

def RecallContext.setTarget (c : RecallContext) (k : Agent) (t : Option Level) : RecallContext :=
  { c with targets := put c.targets k t }

def RecallContext.setMember (c : RecallContext) (k : Agent) (m : Membership) : RecallContext :=
  { c with members := put c.members k m }

def RecallContext.setDetachAgent (c : RecallContext) (k : Agent) (b : Bool) : RecallContext :=
  { c with detachAgents := put c.detachAgents k b }

/-- The causes a recall is handed over for (R97). -/
inductive Cause where
  | waiter | idle | revision | retire
  | detach (k : Agent)
  deriving DecidableEq, Repr

/-- The context with a cause added. -/
def RecallContext.addCause (c : RecallContext) : Cause → RecallContext
  | .waiter => { c with waiter := true }
  | .idle => { c with idle := true }
  | .revision => { c with revision := true }
  | .retire => { c with retire := true }
  | .detach k => c.setDetachAgent k true

/-- A context with no cause, no target, empty sets and Forced count 0 (R98, step 2). -/
def RecallContext.blank (force : Bool) : RecallContext :=
  { waiter := false, idle := false, revision := false, retire := false
    detachAgents := Vector.replicate 8 false
    force := force
    targets := Vector.replicate 8 none
    members := Vector.replicate 8 .neither
    forcedCount := 0 }

/-! ### Windows (R9, R11, R15, R16) -/

def Window.holding (w : Window) (k : Agent) : Holding := look w.holdings k

def Window.pinCount (w : Window) (k : Agent) : BitVec 4 := look w.pins k

def Window.right (w : Window) (k : Agent) : Right := look w.fields.rights k

def Window.setHolding (w : Window) (k : Agent) (h : Holding) : Window := { w with holdings := put w.holdings k h }

def Window.setPins (w : Window) (k : Agent) (n : BitVec 4) : Window := { w with pins := put w.pins k n }

def Window.modContext (w : Window) (f : RecallContext → RecallContext) : Window := { w with context := w.context.map f }

/-- The state of a window that is not FREE, from the causes of its context (R11; log 6). -/
def Window.state (w : Window) : WindowState :=
  match w.context with
  | none => .opened
  | some c => if c.retire then .retiring else if c.revision then .revising else .recalling

/-- The state of a slot's window record (R11). -/
def Slot.state (s : Slot) : WindowState :=
  match s.window with
  | none => .free
  | some w => w.state

/-- The agent at the head of the waiter list, if any (R80). -/
def Window.head (w : Window) : Option Agent := w.waiters.head?.map (·.agent)

/-- The agent is on the waiter list. -/
def Window.listed (w : Window) (k : Agent) : Bool := w.waiters.any (·.agent == k)

/-- The waiter list without the agent; the others keep their order (R82). -/
def Window.unlist (w : Window) (k : Agent) : Window := { w with waiters := w.waiters.filter (·.agent != k) }

/-- Any reservation held by the agent ends (R88). -/
def Window.unreserve (w : Window) (k : Agent) : Window :=
  { w with reservation := w.reservation.filter (·.agent != k) }

/-- The number of addresses of a window: 2^Size. -/
def FieldSet.bytes (f : FieldSet) : Nat := 2 ^ f.size.toNat

/-- Agent Base ≤ address < Agent Base + 2^Size (R15). -/
def FieldSet.covers (f : FieldSet) (a : Addr) : Bool :=
  decide (f.agentBase.toNat ≤ a.toNat ∧ a.toNat < f.agentBase.toNat + f.bytes)

/-- Two ranges share an agent address (R14). -/
def FieldSet.overlaps (f g : FieldSet) : Bool :=
  decide (f.agentBase.toNat < g.agentBase.toNat + g.bytes ∧ g.agentBase.toNat < f.agentBase.toNat + f.bytes)

/-- Target Base + (address − Agent Base) (R16). -/
def FieldSet.translate (f : FieldSet) (a : Addr) : Addr := f.targetBase + (a - f.agentBase)

/-- The idle deadline armed at `start` + Idle Limit, or disarmed where Idle Limit is 0 (R145). -/
def Window.armIdle (w : Window) (start : Tick) : Window :=
  { w with idle := if w.fields.idleLimit = 0 then none else some (timer start (w.fields.idleLimit.setWidth 32)) }

/-- A qualifying grant: Last Grant becomes now, and the idle deadline moves with it (R66, R145). -/
def Window.granted (w : Window) (now : Tick) : Window := { w with lastGrant := now }.armIdle now

/-! ### The directory's records -/

/-- The window record of a slot, absent while it is FREE. -/
def Directory.window (d : Directory) (i : SlotId) : Option Window := (look d.slots i).window

/-- A change of the window record of a slot; a FREE slot is left as it is. -/
def Directory.modWindow (d : Directory) (i : SlotId) (f : Window → Window) : Directory :=
  let s := look d.slots i
  { d with slots := put d.slots i { s with window := s.window.map f } }

def Directory.agent (d : Directory) (k : Agent) : AgentRecord := look d.agents k

def Directory.modAgent (d : Directory) (k : Agent) (f : AgentRecord → AgentRecord) : Directory :=
  { d with agents := put d.agents k (f (look d.agents k)) }

def Directory.context (d : Directory) (i : SlotId) : Option RecallContext := (d.window i).bind (·.context)

def Directory.modContext (d : Directory) (i : SlotId) (f : RecallContext → RecallContext) : Directory :=
  d.modWindow i (·.modContext f)

/-- The place of an agent in the recall context of a slot; neither set where there is no context. -/
def Directory.member (d : Directory) (i : SlotId) (k : Agent) : Membership :=
  match d.context i with
  | none => .neither
  | some c => look c.members k

/-- The handle of a slot's window, from its generation as it stands (R2). -/
def Directory.handle (d : Directory) (i : SlotId) : Handle := handleOf (look d.slots i).generation i

/-- The field values a notice for a slot's window is given (R33). -/
def Directory.noticeFields (d : Directory) (i : SlotId) (w : Window) : NoticeFields :=
  { handle := d.handle i, agentBase := w.fields.agentBase, size := w.fields.size }

/-- The slots that are not FREE, ascending. -/
def Directory.liveSlots (d : Directory) : List SlotId := allSlots.filter fun i => (d.window i).isSome

/-- The match mask of an address, as the list of matching slots (R15). -/
def Directory.matchMask (d : Directory) (a : Addr) : List SlotId :=
  allSlots.filter fun i => (d.window i).any fun w => w.fields.covers a

/-- The matched window of an address (R15; log 17). -/
def Directory.matched (d : Directory) (a : Addr) : Option (SlotId × Window) :=
  match d.matchMask a with
  | [] => none
  | i :: _ => (d.window i).map fun w => (i, w)

/-- The slot a supplied handle names, if the handle check passes (R3). -/
def Directory.checkHandle (d : Directory) (h : BitVec 16) : Option SlotId :=
  let i := handleSlot h.toNat
  if h.toNat ≤ 32767 ∧ (d.window i).isSome = true ∧ (look d.slots i).generation = handleGeneration h.toNat then some i
  else none

/-- Frees a slot: its generation rises by 1 modulo 256 and its record is gone (R4). -/
def Directory.freeSlot (d : Directory) (i : SlotId) : Directory :=
  { d with slots := put d.slots i { generation := (look d.slots i).generation + 1, window := none } }

/-! ### Holdings and the Holding Count (R32) -/

/-- The Holding Count after a change of one holding that may cross between NONE and a held level. -/
def countAfter (count : Nat) (before after : Holding) : Nat :=
  match before.held, after.held with
  | false, true => count + 1
  | true, false => count - 1
  | true, true | false, false => count

/-- Sets the holding of an agent in a slot's window and reports the change to the agent's record. -/
def Directory.setHolding (d : Directory) (i : SlotId) (k : Agent) (h : Holding) : Directory :=
  match d.window i with
  | none => d
  | some w =>
    (d.modWindow i (·.setHolding k h)).modAgent k fun a =>
      { a with holdingCount := countAfter a.holdingCount (w.holding k) h }

def Directory.setPins (d : Directory) (i : SlotId) (k : Agent) (n : BitVec 4) : Directory :=
  d.modWindow i (·.setPins k n)

/-! ### Completion records (R181, R183) -/

/-- Writes a record at the tail of the Completion Queue. -/
def Directory.record (d : Directory) (r : Record) : Directory := { d with completions := d.completions ++ [r] }

/-- Ends a command by its tag: its record is written and it leaves the Parked List, if it is there (R180). -/
def Directory.finish (d : Directory) (r : Record) : Directory :=
  { d.record r with parked := d.parked.filter (·.tag != r.tag) }

/-- Parks a command at the tail of the Parked List (R180). -/
def Directory.park (d : Directory) (p : Parked) : Directory := { d with parked := d.parked ++ [p] }

/-! ### Orders the spec leaves open (log 9) -/

/-- Puts `x` at place `n` of a list. -/
def insertAt {α : Type} (x : α) : Nat → List α → List α
  | 0, l => x :: l
  | _ + 1, [] => [x]
  | n + 1, y :: l => y :: insertAt x n l

/-- A list in an order that free values choose; `n` is the first choice not used yet. A list of fewer than two entries has one
order, and no choice is used. -/
def freeOrder {α : Type} : Nat → List α → Nat × List α
  | n, [] => (n, [])
  | n, [x] => (n, [x])
  | n, x :: y :: l =>
    let rest := freeOrder n (y :: l)
    (rest.1 + 1, insertAt x (Config.freeChoice rest.1 % (rest.2.length + 1)) rest.2)

end Sys2Proof.Machine
end

