-- ==== Sys2Proof/Machine/Operands.lean ====
section
/-! DEFINITION. Layouts and codes (spec file 11, R195 to R197): the fields of request messages and PARAM words as they come in,
of verdicts, notices and completion records as they go out. -/

namespace Sys2Proof.Machine

/-- Bits `lo + len − 1` down to `lo` of a word. -/
def field {n : Nat} (w : BitVec n) (lo len : Nat) : BitVec len := w.extractLsb' lo len

/-- A field placed at bit `lo` of a word of `n` bits that is 0 elsewhere. -/
def place (n lo : Nat) {len : Nat} (x : BitVec len) : BitVec n := x.setWidth n <<< lo

/-- A one-bit field. -/
def bit (b : Bool) : BitVec 1 := BitVec.ofBool b

/-- One field per agent, each `len` bits, agent 0 lowest. -/
def perAgent (n len : Nat) (f : Agent → BitVec len) : BitVec n :=
  allAgents.foldl (fun acc k => acc ||| place n (len * k.val) (f k)) 0

/-! ### Codes (R197) -/

def Holding.code : Holding → BitVec 2
  | .none => 0
  | .shared => 1
  | .owner => 2

def Level.code : Level → BitVec 2
  | .none => 0
  | .shared => 1

/-- The level a request's Level field names; OWNER and code 3 name none a RELEASE takes (R51). -/
def Level.ofCode (c : BitVec 2) : Option Level :=
  if c = 0 then some .none else if c = 1 then some .shared else Option.none

def Right.ofCode (c : BitVec 2) : Option Right :=
  if c = 0 then some .none else if c = 1 then some .read else if c = 2 then some .write else Option.none

def AccessKind.code : AccessKind → BitVec 4
  | .fetch => 0
  | .share => 1
  | .claim => 2
  | .store => 3

def WindowState.code : WindowState → BitVec 3
  | .free => 0
  | .opened => 1
  | .recalling => 2
  | .revising => 3
  | .retiring => 4

def AgentState.code : AgentState → BitVec 2
  | .offline => 0
  | .online => 1
  | .detaching => 2
  | .fenced => 3

def UnmatchedPolicy.code : UnmatchedPolicy → BitVec 1
  | .deny => 0
  | .pass => 1

def RetryReason.code : RetryReason → BitVec 4
  | .recalling => 1
  | .queued => 2
  | .reserved => 3
  | .revising => 4

def DenyReason.code : DenyReason → BitVec 4
  | .offline => 5
  | .fenced => 6
  | .detaching => 7
  | .noWindow => 8
  | .crosses => 9
  | .noRight => 10
  | .retiring => 11
  | .notHolder => 12
  | .pinLimit => 13
  | .badRequest => 14

/-- The verdict code and the reason code. -/
def Decision.codes : Decision → BitVec 2 × BitVec 4
  | .grant => (0, 0)
  | .pass => (1, 0)
  | .retry r => (2, r.code)
  | .deny r => (3, r.code)

def Status.code : Status → BitVec 5
  | .done => 1
  | .aborted => 2
  | .superseded => 3
  | .windowGone => 4
  | .agentLost => 5
  | .tableFull => 16
  | .overlap => 17
  | .misaligned => 18
  | .badSize => 19
  | .badField => 20
  | .staleHandle => 21
  | .busy => 22
  | .retiring => 23
  | .tagInUse => 24
  | .notFound => 25
  | .notAbortable => 26
  | .badState => 27
  | .unknownCommand => 28

/-- The twelve commands (R175). -/
inductive CommandKind where
  | openWindow | query | queryAddr | revise | retire | watch | abort | agentAdmit | agentSet | agentQuery | agentDetach
  | agentFence
  deriving DecidableEq, Repr

def CommandKind.code : CommandKind → BitVec 4
  | .openWindow => 1
  | .query => 2
  | .queryAddr => 3
  | .revise => 4
  | .retire => 5
  | .watch => 6
  | .abort => 7
  | .agentAdmit => 8
  | .agentSet => 9
  | .agentQuery => 10
  | .agentDetach => 11
  | .agentFence => 12

/-- The kind code names a command: 1–12 (R197). -/
def namesCommand (c : BitVec 4) : Bool := decide (1 ≤ c.toNat ∧ c.toNat ≤ 12)

/-- The request kinds (R44). -/
inductive RequestKind where
  | access (kind : AccessKind)
  | release | pin | unpin | withdraw
  deriving DecidableEq, Repr

/-- The kind a request's kind code names; codes 8–15 name none (R197). -/
def RequestKind.ofCode (c : BitVec 4) : Option RequestKind :=
  match c.toNat with
  | 0 => some (.access .fetch)
  | 1 => some (.access .share)
  | 2 => some (.access .claim)
  | 3 => some (.access .store)
  | 4 => some .release
  | 5 => some .pin
  | 6 => some .unpin
  | 7 => some .withdraw
  | _ => none

/-! ### Link messages (R196) -/

/-- The fields of a request message; every other bit is ignored. -/
def Request.ofMessage (m : BitVec 64) : Request :=
  { address := field m 0 40, kind := field m 40 4, level := field m 44 2, length := field m 48 13 }

/-- The verdict message. -/
def Verdict.message (v : Verdict) : BitVec 96 :=
  place 96 0 v.target ||| place 96 40 v.decision.codes.1 ||| place 96 44 v.decision.codes.2 |||
    place 96 48 v.holding.code ||| place 96 50 (bit v.uncached) ||| place 96 51 (bit v.adviseRo) |||
    place 96 52 v.tag ||| place 96 64 v.handle

/-- The kind and level fields of a notice; the level of a REVOKED is 0. -/
def NoticeKind.codes : NoticeKind → BitVec 1 × BitVec 2
  | .recall l => (0, l.code)
  | .revoked => (1, 0)

/-- The notice message. -/
def Notice.message (n : Notice) : BitVec 96 :=
  place 96 0 n.fields.agentBase ||| place 96 40 n.kind.codes.1 ||| place 96 41 n.kind.codes.2 |||
    place 96 48 n.fields.size ||| place 96 64 n.fields.handle

/-! ### PARAM words (R195) -/

/-- A field set as supplied in PARAM0–PARAM4, before the checks of R13. -/
structure SuppliedFields where
  agentBase : Addr
  size : BitVec 6
  targetBase : Addr
  rights : BitVec 16
  cacheable : Bool
  adviseRo : Bool
  tag : BitVec 2
  idleLimit : BitVec 16
  deriving DecidableEq, Repr

/-- Two words as a 40-bit address: bits 31:0 in the first, bits 39:32 in bits 7:0 of the second. -/
def addressOf (low high : Word) : Addr := field high 0 8 ++ low

def SuppliedFields.ofParams (p : Vector Word 8) : SuppliedFields :=
  { agentBase := addressOf (look p 0) (look p 1)
    size := field (look p 1) 8 6
    targetBase := addressOf (look p 2) (look p 3)
    rights := field (look p 4) 0 16
    cacheable := (look p 1).getLsbD 16
    adviseRo := (look p 1).getLsbD 17
    tag := field (look p 1) 20 2
    idleLimit := field (look p 4) 16 16 }

/-- The right code supplied for an agent: bits 2k+1:2k. -/
def SuppliedFields.rightCode (f : SuppliedFields) (k : Agent) : BitVec 2 := field f.rights (2 * k.val) 2

/-- The handle field of a word, 16 bits. -/
def handleField (w : Word) : BitVec 16 := field w 0 16

/-- The force flag of a word. -/
def forceField (w : Word) : Bool := w.getLsbD 16

/-- The agent number of a word, 0–15. -/
def agentField (w : Word) : BitVec 4 := field w 0 4

/-- The agent a number names, if it is at most 7. -/
def agentOf (n : BitVec 4) : Option Agent := if h : n.toNat < 8 then some ⟨n.toNat, h⟩ else none

/-- The settings word of AGENT_ADMIT and AGENT_SET. -/
def Settings.ofWord (w : Word) : Settings :=
  { timeoutSelect := field w 0 2
    retries := field w 2 2
    fenceThreshold := field w 8 8
    unmatched := if w.getLsbD 16 then .pass else .deny
    reservationHold := field w 24 8 }

/-- The same layout on the way out (AGENT_QUERY). -/
def Settings.word (s : Settings) : Word :=
  place 32 0 s.timeoutSelect ||| place 32 2 s.retries ||| place 32 8 s.fenceThreshold |||
    place 32 16 s.unmatched.code ||| place 32 24 s.reservationHold

/-- The settings a word supplies name a value each: Recall Retries is not 3 and Reservation Hold is not 0 (R26). -/
def Settings.named (s : Settings) : Bool := s.retries != 3 && s.reservationHold != 0

/-- The time allowed for an answer to a recall, by Recall Timeout Select (R26). -/
def Settings.timeout (s : Settings) : Tick :=
  match s.timeoutSelect.toNat with
  | 0 => 16
  | 1 => 128
  | 2 => 1024
  | _ => 8192

/-! ### Completion records (R183, R195) -/

/-- A record with content in word 1 alone. -/
def Record.short (tag : Tag) (kind : BitVec 4) (status : Status) (word1 : Word) : Record :=
  { tag := tag, kind := kind, status := status, word1 := word1, word2 := 0, word3 := 0, word4 := 0, word5 := 0 }

/-- A record of a command of known kind, with content in words 1 and 2. -/
def Record.counted (tag : Tag) (kind : CommandKind) (status : Status) (word1 word2 : Word) : Record :=
  { Record.short tag kind.code status word1 with word2 := word2 }

/-- Word `n` of a record; word 0 holds tag, kind and status. -/
def Record.word (r : Record) : Fin 6 → Word
  | 0 => place 32 0 r.tag ||| place 32 16 r.kind ||| place 32 24 r.status.code
  | 1 => r.word1
  | 2 => r.word2
  | 3 => r.word3
  | 4 => r.word4
  | 5 => r.word5

/-- Word 2 of a QUERY record: holdings and window state. -/
def Window.stateWord (w : Window) : Word :=
  perAgent 32 2 (fun k => (w.holding k).code) ||| place 32 16 w.state.code

/-- Word 3 of a QUERY record: pin counts. -/
def Window.pinsWord (w : Window) : Word := perAgent 32 4 w.pinCount

/-- Word 4 of a QUERY record: waiters, reservation, pending revision and watch. -/
def Window.waitWord (w : Window) : Word :=
  place 32 0 (BitVec.ofNat 4 w.waiters.length) |||
    place 32 4 (BitVec.ofNat 3 ((w.head.map (·.val)).getD 0)) |||
    place 32 8 (bit w.reservation.isSome) |||
    place 32 9 (BitVec.ofNat 3 ((w.reservation.map (·.agent.val)).getD 0)) |||
    place 32 12 (bit w.revision.isSome) ||| place 32 13 (bit w.watch.isSome)

/-- Word 5 of a QUERY record: Outstanding and Blocked masks; all clear without a context (R18). -/
def Window.recallWord (w : Window) : Word :=
  match w.context with
  | none => 0
  | some c =>
    perAgent 32 1 (fun k => bit (look c.members k).isOutstanding) |||
      (perAgent 32 1 (fun k => bit (look c.members k).isBlocked)) <<< 8

/-- The sum of an agent's pin counts over all windows that are not FREE (R29). -/
def Directory.totalPins (d : Directory) (k : Agent) : Nat :=
  (d.liveSlots.map fun i => ((d.window i).map fun w => (w.pinCount k).toNat).getD 0).sum

/-- Word 2 of an AGENT_QUERY record: state, score, Holding Count. -/
def AgentRecord.stateWord (a : AgentRecord) : Word :=
  place 32 0 a.state.code ||| place 32 8 a.faultScore ||| place 32 16 (BitVec.ofNat 8 a.holdingCount)

/-- Word 3 of an AGENT_QUERY record: total pins, queue occupancy, backlog size. -/
def Directory.queueWord (d : Directory) (k : Agent) : Word :=
  place 32 0 (BitVec.ofNat 11 (d.totalPins k)) ||| place 32 16 (BitVec.ofNat 3 (d.agent k).notices.length) |||
    place 32 24 (BitVec.ofNat 8 (d.agent k).backlog.length)

/-- The number of an agent as a word. -/
def agentWord (k : Agent) : Word := BitVec.ofNat 32 k.val

end Sys2Proof.Machine
end

