-- ==== Sys2Proof/Machine/Flags.lean ====
section
/-! DEFINITION. Alerts, interrupt enables and the interrupt line (spec file 10), and the words in which registers show them. -/

namespace Sys2Proof.Machine

/-! ### Setting alerts (R190) -/

/-- The mask bit of an agent. -/
def agentBit (k : Agent) : BitVec 8 := 1#8 <<< k.val

def Alerts.setForcedRevoke (a : Alerts) (k : Agent) : Alerts :=
  { a with forcedRevoke := true, forcedRevokeAgents := a.forcedRevokeAgents ||| agentBit k }

def Alerts.setFenced (a : Alerts) (k : Agent) : Alerts :=
  { a with fenced := true, fencedAgents := a.fencedAgents ||| agentBit k }

def Alerts.setAgentReset (a : Alerts) (k : Agent) : Alerts :=
  { a with agentReset := true, agentResetAgents := a.agentResetAgents ||| agentBit k }

def Alerts.setCommandOverrun (a : Alerts) : Alerts := { a with commandOverrun := true }

def Directory.modAlerts (d : Directory) (f : Alerts → Alerts) : Directory := { d with alerts := f d.alerts }

/-! ### Clearing alerts (R191) -/

/-- Clears each kind bit written as 1. -/
def Alerts.clearStatus (a : Alerts) (v : Word) : Alerts :=
  { a with
    forcedRevoke := a.forcedRevoke && !v.getLsbD 4
    fenced := a.fenced && !v.getLsbD 5
    agentReset := a.agentReset && !v.getLsbD 6
    commandOverrun := a.commandOverrun && !v.getLsbD 7 }

/-- Clears each mask bit written as 1, in the mask of its kind. -/
def Alerts.clearAgents (a : Alerts) (v : Word) : Alerts :=
  { a with
    forcedRevokeAgents := a.forcedRevokeAgents &&& ~~~field v 0 8
    fencedAgents := a.fencedAgents &&& ~~~field v 8 8
    agentResetAgents := a.agentResetAgents &&& ~~~field v 16 8 }

/-! ### Register words (file 11, Register layouts) -/

/-- ALERT_STATUS as read. -/
def Alerts.statusWord (a : Alerts) : Word :=
  place 32 4 (bit a.forcedRevoke) ||| place 32 5 (bit a.fenced) ||| place 32 6 (bit a.agentReset) |||
    place 32 7 (bit a.commandOverrun)

/-- ALERT_AGENTS as read. -/
def Alerts.agentsWord (a : Alerts) : Word :=
  place 32 0 a.forcedRevokeAgents ||| place 32 8 a.fencedAgents ||| place 32 16 a.agentResetAgents

/-- The enables an INT_ENABLE write sets. -/
def Enables.ofWord (v : Word) : Enables :=
  { completion := v.getLsbD 0, forcedRevoke := v.getLsbD 4, fenced := v.getLsbD 5, agentReset := v.getLsbD 6,
    commandOverrun := v.getLsbD 7 }

/-- INT_ENABLE as read. -/
def Enables.word (e : Enables) : Word :=
  place 32 0 (bit e.completion) ||| place 32 4 (bit e.forcedRevoke) ||| place 32 5 (bit e.fenced) |||
    place 32 6 (bit e.agentReset) ||| place 32 7 (bit e.commandOverrun)

/-! ### The interrupt line (R193) -/

/-- The level of the line: a record waits with the Completion enable on, or an alert bit is set with its enable on (log 7). -/
def State.interruptLine (s : State) : Bool :=
  (!s.directory.completions.isEmpty && s.enables.completion) ||
    (s.directory.alerts.forcedRevoke && s.enables.forcedRevoke) ||
    (s.directory.alerts.fenced && s.enables.fenced) ||
    (s.directory.alerts.agentReset && s.enables.agentReset) ||
    (s.directory.alerts.commandOverrun && s.enables.commandOverrun)

end Sys2Proof.Machine
end

