-- ==== Sys2Proof/Machine/Notices.lean ====
section
/-! DEFINITION. The Notice Queue and the Revoked Backlog (spec file 02, R33 to R40): placing, withdrawing and filling. -/

namespace Sys2Proof.Machine

/-- The notice is a RECALL. -/
def Notice.isRecall (n : Notice) : Bool :=
  match n.kind with
  | .recall _ => true
  | .revoked => false

/-- The queue holds a notice for the slot (R34). -/
def AgentRecord.queued (a : AgentRecord) (i : SlotId) : Bool := a.notices.any (·.slot == i)

/-- Every notice for the slot replaced by `n`, each keeping its place; at most one is there (R34). -/
def AgentRecord.replaceNotice (a : AgentRecord) (i : SlotId) (n : Notice) : AgentRecord :=
  { a with notices := a.notices.map fun m => if m.slot = i then n else m }

/-- A notice enters at the tail. -/
def AgentRecord.enqueue (a : AgentRecord) (n : Notice) : AgentRecord := { a with notices := a.notices ++ [n] }

/-- The queue has a free place. -/
def AgentRecord.hasRoom (a : AgentRecord) : Bool := decide (a.notices.length < Config.noticePlaces)

/-- Places a RECALL for slot `i` at a level: the queue afterwards, and where the RECALL stands (R36). -/
def AgentRecord.placeRecall (a : AgentRecord) (i : SlotId) (level : Level) (f : NoticeFields) :
    AgentRecord × NoticeStatus :=
  match a.notices.find? (·.slot == i) with
  | some n =>
    match n.kind with
    | .recall present =>
      (if level.holding.rank < present.holding.rank then a.replaceNotice i { kind := .recall level, fields := f } else a,
        .held)
    | .revoked => (a, .unsent)
  | none => if a.hasRoom then (a.enqueue { kind := .recall level, fields := f }, .held) else (a, .unsent)

/-- An entry of the Revoked Backlog made or set again, the entries kept in slot order (R39). -/
def insertBacklog (f : NoticeFields) : List NoticeFields → List NoticeFields
  | [] => [f]
  | g :: l =>
    if f.slot < g.slot then f :: g :: l
    else if f.slot = g.slot then f :: l
    else g :: insertBacklog f l

/-- Places a REVOKED notice for slot `i` (R37). -/
def AgentRecord.placeRevoked (a : AgentRecord) (i : SlotId) (f : NoticeFields) : AgentRecord :=
  if a.queued i then a.replaceNotice i { kind := .revoked, fields := f }
  else if a.hasRoom then a.enqueue { kind := .revoked, fields := f }
  else { a with backlog := insertBacklog f a.backlog }

/-- The queue without its RECALL for slot `i`; the others keep their order (R38). -/
def AgentRecord.dropRecall (a : AgentRecord) (i : SlotId) : AgentRecord :=
  { a with notices := a.notices.filter fun n => !(n.slot == i && n.isRecall) }

/-- The queue holds a RECALL for slot `i`. -/
def AgentRecord.holdsRecall (a : AgentRecord) (i : SlotId) : Bool := a.notices.any fun n => n.slot == i && n.isRecall

/-- Queue and backlog emptied (R161, R164). -/
def AgentRecord.emptyNotices (a : AgentRecord) : AgentRecord := { a with notices := [], backlog := [] }

/-- The level and field values the RECALL of agent `k` for slot `i` carries now: its present target, and the window as it stands
(R33). -/
def Directory.recallOf (d : Directory) (i : SlotId) (k : Agent) : Option (Level × NoticeFields) :=
  match d.window i with
  | none => none
  | some w => (w.context.bind fun c => look c.targets k).map fun l => (l, d.noticeFields i w)

/-- Sets the Notice Status of an Outstanding agent (R103). -/
def RecallContext.markNotice (c : RecallContext) (k : Agent) (s : NoticeStatus) : RecallContext :=
  match look c.members k with
  | .outstanding w => c.setMember k (.outstanding { w with notice := s })
  | .neither | .blocked => c

def Directory.markNotice (d : Directory) (i : SlotId) (k : Agent) (s : NoticeStatus) : Directory :=
  d.modContext i (·.markNotice k s)

/-- Sets whether the RECALL of an Outstanding agent waits for the verdict of the UNPIN that placed it (R79). -/
def RecallContext.markVerdict (c : RecallContext) (k : Agent) (b : Bool) : RecallContext :=
  match look c.members k with
  | .outstanding w => c.setMember k (.outstanding { w with awaitsVerdict := b })
  | .neither | .blocked => c

/-- The RECALL of Outstanding agent `k` for slot `i` waits for a verdict (R79). -/
def Directory.awaitVerdict (d : Directory) (i : SlotId) (k : Agent) : Directory := d.modContext i (·.markVerdict k true)

/-- The verdict in agent `k`'s port has been returned: none of its RECALLs waits for it any more (R79). -/
def Directory.verdictGiven (d : Directory) (k : Agent) : Directory :=
  { d with slots := d.slots.map fun s => { s with window := s.window.map (·.modContext (·.markVerdict k false)) } }

/-- A notice of agent `k` that may not reach it yet: the RECALL that its UNPIN placed, before that UNPIN's verdict (R79). -/
def Directory.heldBack (d : Directory) (k : Agent) (n : Notice) : Bool :=
  n.isRecall &&
    match d.member n.slot k with
    | .outstanding w => w.awaitsVerdict
    | .neither | .blocked => false

/-- Agent `k` is Outstanding in slot `i` and its RECALL is Unsent. -/
def Directory.unsent (d : Directory) (i : SlotId) (k : Agent) : Bool :=
  match d.member i k with
  | .outstanding w => w.notice == .unsent
  | .neither | .blocked => false

/-- The first Unsent RECALL of agent `k`, lowest slot first, among windows with no notice in its queue (R40). -/
def Directory.nextUnsent (d : Directory) (k : Agent) : Option (SlotId × Level × NoticeFields) :=
  allSlots.findSome? fun i =>
    if d.unsent i k && !(d.agent k).queued i then (d.recallOf i k).map fun r => (i, r) else none

/-- The first entry of a backlog, lowest slot first, whose window has no notice in the queue (R34, R40; log 21). -/
def AgentRecord.nextRevoked (a : AgentRecord) : Option NoticeFields := a.backlog.find? fun f => !a.queued f.slot

/-- Fills one freed place of agent `k`'s Notice Queue (R40). -/
def Directory.fillPlace (d : Directory) (k : Agent) : Directory :=
  if (d.agent k).hasRoom then
    match (d.agent k).nextRevoked with
    | some f =>
      d.modAgent k fun a =>
        { a.enqueue { kind := .revoked, fields := f } with backlog := a.backlog.filter fun g => g.slot != f.slot }
    | none =>
      match d.nextUnsent k with
      | some (i, l, f) =>
        (d.modAgent k fun a => a.enqueue { kind := .recall l, fields := f }).markNotice i k .held
      | none => d
  else d

/-- Withdraws the undelivered RECALL for slot `i` from agent `k`'s queue, if one is there, and fills the place (R38). -/
def Directory.withdrawRecall (d : Directory) (i : SlotId) (k : Agent) : Directory :=
  if (d.agent k).holdsRecall i then (d.modAgent k (·.dropRecall i)).fillPlace k else d

/-- Withdraws every RECALL still queued for slot `i` (R118, stage 3; R137, step 1). -/
def Directory.withdrawAll (d : Directory) (i : SlotId) : Directory :=
  allAgents.foldl (fun d k => d.withdrawRecall i k) d

/-- The agent takes the oldest notice of its queue (R35): the notice leaves, a RECALL is marked Noticed-taken in its window's
context, and the freed place is filled. -/
def Directory.takeNotice (d : Directory) (k : Agent) (n : Notice) : Directory :=
  let d := d.modAgent k fun a => { a with notices := a.notices.tail }
  let d := if n.isRecall then d.markNotice n.slot k .taken else d
  d.fillPlace k

end Sys2Proof.Machine
end

