-- ==== Sys2Proof/Machine/Access.lean ====
section
/-! DEFINITION. The questions asked of a FETCH, SHARE, CLAIM or STORE: its kind as decided (R56), the right it needs (R54), its
class (R57, R72) and the conflict test (R73). -/

namespace Sys2Proof.Machine

/-- The kind as decided: where CACHEABLE is off, SHARE is decided as FETCH and CLAIM as STORE (R56). -/
def AccessKind.decided (kind : AccessKind) (cacheable : Bool) : AccessKind :=
  if cacheable then kind
  else
    match kind with
    | .share => .fetch
    | .claim => .store
    | .fetch => .fetch
    | .store => .store

/-- The right covers the kind: READ or WRITE for FETCH and SHARE, WRITE for CLAIM and STORE (R54). -/
def Right.allows (r : Right) (kind : AccessKind) : Bool :=
  match r, kind with
  | .write, _ => true
  | .read, .fetch | .read, .share => true
  | .read, .claim | .read, .store => false
  | .none, _ => false

/-- The classes of R72. -/
inductive AccessClass where
  | holderAccess
  | adds
  | raises
  | neither
  deriving DecidableEq, Repr

/-- The class of a kind as decided, by the requester's holding (R57, R72). -/
def AccessKind.class (kind : AccessKind) (h : Holding) : AccessClass :=
  match kind, h with
  | .fetch, .none => .neither
  | .fetch, .shared | .fetch, .owner => .holderAccess
  | .share, .none => .adds
  | .share, .shared | .share, .owner => .holderAccess
  | .claim, .none => .adds
  | .claim, .shared => .raises
  | .claim, .owner => .holderAccess
  | .store, .none | .store, .shared => .neither
  | .store, .owner => .holderAccess

/-- The request would add or raise the requester's holding. -/
def AccessClass.grows : AccessClass → Bool
  | .adds | .raises => true
  | .holderAccess | .neither => false

/-- The level another agent's holding must come down to for this kind to be granted, if it stands in the way (R73). -/
def AccessKind.targetOf (kind : AccessKind) (h : Holding) : Option Level :=
  match kind, h with
  | .fetch, .owner | .share, .owner => some .shared
  | .fetch, .none | .fetch, .shared | .share, .none | .share, .shared => none
  | .claim, .shared | .claim, .owner | .store, .shared | .store, .owner => some .none
  | .claim, .none | .store, .none => none

/-- The conflict test: the agents other than `k` whose holdings must be lowered, each with its target (R73). -/
def Window.conflicts (w : Window) (k : Agent) (kind : AccessKind) : List (Agent × Level) :=
  allAgents.filterMap fun j => if j = k then none else (kind.targetOf (w.holding j)).map fun l => (j, l)

/-- The request needs another agent's holding lowered. -/
def Window.conflicting (w : Window) (k : Agent) (kind : AccessKind) : Bool := !(w.conflicts k kind).isEmpty

/-- The holding after a grant of this kind as decided (R63, R64). -/
def AccessKind.holdingAfter (kind : AccessKind) (h : Holding) : Holding :=
  match kind, h with
  | .share, .none => .shared
  | .claim, _ => .owner
  | .share, .shared => .shared
  | .share, .owner => .owner
  | .fetch, h | .store, h => h

/-- Every holder with its target NONE: the targets of RETIRE (R135) and of a change of location or cacheability (R122). -/
def Window.allHolders (w : Window) : List (Agent × Level) :=
  allAgents.filterMap fun k => if (w.holding k).held then some (k, .none) else none

/-- Every holder with pin count 0, at NONE: the targets of an IDLE recall (R146). -/
def Window.unpinnedHolders (w : Window) : List (Agent × Level) :=
  allAgents.filterMap fun k => if (w.holding k).held && w.pinCount k == 0 then some (k, .none) else none

end Sys2Proof.Machine
end

