-- ==== Sys2Proof/Machine/Recall.lean ====
section
/-! DEFINITION. The Recall Controller (spec file 05): starting and joining recalls, notices, forced revocation, head service
(R86, R87), the completion check and the completion stages (R117, R118, R127, R137), and causes that leave (R116). Each
operation takes the tick `now` at which its event is taken. -/

namespace Sys2Proof.Machine

/-! ### Placing RECALLs (R104) -/

/-- Places the RECALL of Outstanding agent `k` for slot `i`, and marks where it stands. -/
def Directory.placeRecall (d : Directory) (i : SlotId) (k : Agent) : Directory :=
  match d.recallOf i k with
  | none => d
  | some (l, f) =>
    let r := (d.agent k).placeRecall i l f
    (d.modAgent k fun _ => r.1).markNotice i k r.2

/-- A placing for an agent already Outstanding: while its RECALL is Unsent nothing changes (R104). -/
def Directory.placeRecallAgain (d : Directory) (i : SlotId) (k : Agent) : Directory :=
  if d.unsent i k then d else d.placeRecall i k

/-! ### Entering and leaving the sets (R99, R79) -/

/-- Agent `k` enters the Outstanding set: Retries Used 0, a deadline from its recall timeout, a RECALL placed. -/
def Directory.enterOutstanding (d : Directory) (now : Tick) (i : SlotId) (k : Agent) : Directory :=
  let wait : Wait :=
    { retriesUsed := 0, deadline := timer now (d.agent k).settings.timeout, notice := .unsent,
      awaitsVerdict := false }
  (d.modContext i (·.setMember k (.outstanding wait))).placeRecall i k

/-- A revocation made while the agent is DETACHING counts toward its detach (R160). -/
def AgentRecord.countRevocation (a : AgentRecord) : AgentRecord :=
  if a.state = .detaching then
    { a with detach := a.detach.map fun p => { p with forced := p.forced + 1 } }
  else a

/-- A forced revocation of agent `k` in slot `i` (R109); `force`: under Force or the DETACH force, which clears the pins
whatever the target (R110). -/
def Directory.revoke (d : Directory) (i : SlotId) (k : Agent) (force : Bool) : Directory :=
  match d.window i, d.recallOf i k with
  | some w, some (l, f) =>
    let d := d.setHolding i k ((w.holding k).lowered l)
    let d := if force || l == .none then d.setPins i k 0 else d
    let d := d.modContext i fun c => { c.setMember k .neither with forcedCount := raised c.forcedCount 1 }
    d.modAgent k fun a => (a.placeRevoked i f).countRevocation
  | none, _ | some _, none => d

/-- Merges one target into the context of slot `i` (R99, R100); `detachForce`: the force of R101 for this agent. -/
def Directory.mergeTarget (d : Directory) (now : Tick) (detachForce : Bool) (i : SlotId) (k : Agent) (l : Level) :
    Directory :=
  match d.window i with
  | none => d
  | some w =>
    match w.context with
    | none => d
    | some c =>
      let t := strengthen (look c.targets k) l
      let d := d.modContext i (·.setTarget k (some t))
      match look c.members k with
      | .neither =>
        if (w.holding k).above t then
          if w.pinCount k = 0 then d.enterOutstanding now i k
          else if c.force || detachForce then d.revoke i k true
          else d.modContext i (·.setMember k .blocked)
        else d
      | .outstanding _ => if look c.targets k = some t then d else d.placeRecallAgain i k
      | .blocked => if detachForce then d.revoke i k true else d

/-- Merges the targets of a cause, one agent at a time (R99; log 25). -/
def Directory.mergeTargets (d : Directory) (now : Tick) (i : SlotId) (targets : List (Agent × Level)) : Directory :=
  targets.foldl (fun d t => d.mergeTarget now false i t.1 t.2) d

/-- Revokes every agent of the Blocked set at once (R101). -/
def Directory.revokeBlocked (d : Directory) (i : SlotId) : Directory :=
  allAgents.foldl (fun d k => if (d.member i k).isBlocked then d.revoke i k true else d) d

/-! ### Causes (R95, R98) -/

/-- Creates a context for a cause: a reservation is dropped and the window's state follows (R98, steps 1 to 3). -/
def Directory.createContext (d : Directory) (i : SlotId) (cause : Cause) (force : Bool) : Directory :=
  d.modWindow i fun w =>
    { w with reservation := none, context := some ((RecallContext.blank force).addCause cause) }

/-- A cause joins the context. -/
def Directory.addCause (d : Directory) (i : SlotId) (cause : Cause) : Directory := d.modContext i (·.addCause cause)

def Directory.setForce (d : Directory) (i : SlotId) (force : Bool) : Directory :=
  d.modContext i fun c => { c with force := force }

/-- Starts a recall in a window without a context, without its completion check (R98, steps 1 to 4). -/
def Directory.startRecall (d : Directory) (now : Tick) (i : SlotId) (cause : Cause) (force : Bool)
    (targets : List (Agent × Level)) : Directory :=
  (d.createContext i cause force).mergeTargets now i targets

/-! ### Head service (R86, R87, R88) -/

/-- The entries of a waiter list from the first one whose wanted kind its agent's right allows. -/
def Window.servable (w : Window) : List Waiter :=
  w.waiters.dropWhile fun h => !(w.right h.agent).allows h.wanted

/-- Head service in slot `i`: runs where the window is OPEN and holds no reservation. Entries whose right is lost leave; then
the head gets a WAITER recall on a conflict, and a reservation otherwise. A WAITER recall always has a target above its level,
so its completion check finds a set not empty (R98) and is not made here (log 16). -/
def Directory.headService (d : Directory) (now : Tick) (i : SlotId) : Directory :=
  match d.window i with
  | none => d
  | some w =>
    if w.context.isSome || w.reservation.isSome then d
    else
      let d := d.modWindow i fun w => { w with waiters := w.servable }
      match w.servable with
      | [] => d
      | h :: _ =>
        match w.conflicts h.agent (h.wanted.decided w.fields.cacheable) with
        | [] =>
          let hold : Tick := (d.agent h.agent).settings.reservationHold.setWidth 32
          d.modWindow i fun w => { w with reservation := some { agent := h.agent, expiry := timer now hold } }
        | t :: ts => d.startRecall now i .waiter false (t :: ts)

/-! ### Completion (R117, R118) -/

/-- Stages 3 to 5: RECALLs withdrawn, the context removed and the window OPEN; idle reclaim re-armed; head service. The end of a
context that has lost its last cause runs the same stages (R116). -/
def Directory.closeContext (d : Directory) (now : Tick) (i : SlotId) : Directory :=
  let d := d.modWindow i fun w => { w with context := none }
  let d := d.withdrawAll i
  let d := d.modWindow i (·.armIdle now)
  d.headService now i

/-- The Forced count of a slot's context, as a record's word 2. -/
def Directory.forcedWord (d : Directory) (i : SlotId) : Word :=
  match d.context i with
  | none => 0
  | some c => c.forcedCount.setWidth 32

/-- The handle of a slot's window as a record's word 1. -/
def Directory.handleWord (d : Directory) (i : SlotId) : Word := (d.handle i).setWidth 32

/-- Stage 2: the pending revision replaces the field set, and its REVISE completes DONE (R127). -/
def Directory.applyRevision (d : Directory) (i : SlotId) : Directory :=
  match (d.window i).bind (·.revision) with
  | none => d
  | some p =>
    let r := Record.counted p.tag .revise .done (d.handleWord i) (d.forcedWord i)
    let d := d.modWindow i fun w =>
      { w.modContext (fun c => { c with revision := false }) with fields := p.fields, revision := none }
    d.finish r

/-- Ends the watch of slot `i` with its window (R137, step 2; R154). -/
def Directory.endWatch (d : Directory) (i : SlotId) : Directory :=
  match (d.window i).bind (·.watch) with
  | none => d
  | some x =>
    (d.modWindow i fun w => { w with watch := none }).finish
      (Record.counted x.tag .watch .windowGone (d.handleWord i) 0)

/-- Stage 1: retirement completes (R137). -/
def Directory.completeRetirement (d : Directory) (i : SlotId) : Directory :=
  let forced := d.forcedWord i
  let handle := d.handleWord i
  let tag := (d.window i).bind (·.retireTag)
  let d := d.modWindow i fun w => { w with context := none }
  let d := d.withdrawAll i
  let d := d.endWatch i
  let d := d.freeSlot i
  match tag with
  | none => d
  | some t => d.finish (Record.counted t .retire .done handle forced)

/-- The completion stages (R118). -/
def Directory.complete (d : Directory) (now : Tick) (i : SlotId) (c : RecallContext) : Directory :=
  if c.retire then d.completeRetirement i
  else if c.revision then (d.applyRevision i).closeContext now i
  else d.closeContext now i

/-- The completion check: the recall completes when both sets are empty (R117). -/
def Directory.checkCompletion (d : Directory) (now : Tick) (i : SlotId) : Directory :=
  match d.context i with
  | none => d
  | some c => if c.waits then d else d.complete now i c

/-- What follows when a cause has left: a context with no cause left ends at once (R116). -/
def Directory.afterCauseLeft (d : Directory) (now : Tick) (i : SlotId) : Directory :=
  match d.context i with
  | none => d
  | some c => if c.causeless then d.closeContext now i else d

/-! ### Scores (R30) -/

/-- A report that adds to the Fault Score. -/
def Directory.addScore (d : Directory) (k : Agent) (n : Nat) : Directory :=
  d.modAgent k fun a => { a with faultScore := raised a.faultScore n }

/-- The Answered report. -/
def Directory.creditScore (d : Directory) (k : Agent) : Directory :=
  d.modAgent k fun a => { a with faultScore := loweredByOne a.faultScore }

/-- The fence check finds a nonzero threshold reached (R31). -/
def AgentRecord.fenceReached (a : AgentRecord) : Bool :=
  a.settings.fenceThreshold != 0 && decide (a.settings.fenceThreshold.toNat ≤ a.faultScore.toNat)

end Sys2Proof.Machine
end

