-- ==== Sys2Proof/Machine/Departure.lean ====
section
/-! DEFINITION. How an agent leaves (spec file 08): agent loss (R164, R115), the fence check and automatic fence (R31, R167), the
detach in progress, its completion (R161) and its ABORT (R162). -/

namespace Sys2Proof.Machine

/-! ### Waiter lists (R84) -/

/-- Agent `k` is the head of the waiter list of an OPEN window. -/
def Window.openHead (w : Window) (k : Agent) : Bool := w.context.isNone && w.head == some k

/-- Removes agent `k` from the waiter list of slot `i`; a reservation it holds ends. -/
def Directory.unlist (d : Directory) (i : SlotId) (k : Agent) : Directory :=
  d.modWindow i fun w => (w.unlist k).unreserve k

/-- Removes agent `k` from the waiter list of slot `i`, with head service where it was the head of an OPEN window (R84). -/
def Directory.leaveWaiters (d : Directory) (now : Tick) (k : Agent) (i : SlotId) : Directory :=
  match d.window i with
  | none => d
  | some w =>
    if w.listed k then
      let d := d.unlist i k
      if w.openHead k then d.headService now i else d
    else d

/-! ### Agent loss (R115, R164) -/

/-- Removes a lost agent from the recall context of slot `i` (R115). -/
def Directory.removeFromContext (d : Directory) (now : Tick) (k : Agent) (i : SlotId) : Directory :=
  match d.context i with
  | none => d
  | some c =>
    let d := d.modContext i fun c => ((c.setMember k .neither).setTarget k none).setDetachAgent k false
    let d := if (look c.members k).isMember then d.checkCompletion now i else d
    if look c.detachAgents k then d.afterCauseLeft now i else d

/-- Agent loss in one window (R164, step 2, a to d). -/
def Directory.loseWindow (d : Directory) (now : Tick) (k : Agent) (i : SlotId) : Directory :=
  match d.window i with
  | none => d
  | some w =>
    let d := (d.setHolding i k .none).setPins i k 0
    let d := d.unlist i k
    let d := d.removeFromContext now k i
    if w.openHead k then d.headService now i else d

/-- The detach in progress, if any, ends with a record and is removed (R155). -/
def Directory.endDetach (d : Directory) (k : Agent) (status : Status) : Directory :=
  match (d.agent k).detach with
  | none => d
  | some p =>
    (d.modAgent k fun a => { a with detach := none }).finish
      (Record.counted p.tag .agentDetach status (agentWord k) (BitVec.ofNat 32 p.forced))

/-- Agent loss, after the event has set the agent's state (R164). -/
def Directory.agentLoss (d : Directory) (now : Tick) (k : Agent) : Directory :=
  let d := d.modAgent k (·.emptyNotices)
  let d := d.liveSlots.foldl (fun d i => d.loseWindow now k i) d
  d.endDetach k .agentLost

/-- The agent becomes FENCED and is lost (R166, R167). -/
def Directory.fence (d : Directory) (now : Tick) (k : Agent) : Directory :=
  (d.modAgent k fun a => { a with state := .fenced }).agentLoss now k

/-- The fence check after a report that adds to the score, with the automatic fence it makes (R31, R167). -/
def Directory.fenceCheck (d : Directory) (now : Tick) (k : Agent) : Directory :=
  if (d.agent k).fenceReached then (d.fence now k).modAlerts (·.setFenced k) else d

/-! ### Detach (R157, R158, R161, R162) -/

/-- Agent `k` leaves Detach Agents in slot `i`; `untarget`: its Target becomes "not targeted" as well (R161, R162). -/
def Directory.leaveDetach (d : Directory) (now : Tick) (k : Agent) (untarget : Bool) (i : SlotId) : Directory :=
  let d := d.modContext i fun c =>
    let c := c.setDetachAgent k false
    if untarget then c.setTarget k none else c
  d.afterCauseLeft now i

/-- The slots whose recall context holds agent `k` in Detach Agents, ascending. -/
def Directory.detachSlots (d : Directory) (k : Agent) : List SlotId :=
  allSlots.filter fun i => (d.context i).any fun c => look c.detachAgents k

/-- The detach of agent `k` completes (R161). The order of the windows of step 1 is free (log 9). -/
def Directory.completeDetach (d : Directory) (now : Tick) (k : Agent) : Directory :=
  let order := freeOrder d.choices (d.detachSlots k)
  let d := order.2.foldl (fun d i => d.leaveDetach now k true i) { d with choices := order.1 }
  let d := d.modAgent k fun a => { a.emptyNotices with state := .offline }
  d.endDetach k .done

/-- The agents whose Holding Count this event brought to 0 while they are DETACHING. -/
def Directory.emptied (before after : Directory) : List Agent :=
  allAgents.filter fun k =>
    (after.agent k).state == .detaching && (after.agent k).holdingCount == 0 && (before.agent k).holdingCount != 0

/-- Completes the detaches of some agents, in a free order (log 9). -/
def Directory.completeDetaches (d : Directory) (now : Tick) (ks : List Agent) : Directory :=
  let order := freeOrder d.choices ks
  order.2.foldl (fun d k => d.completeDetach now k) { d with choices := order.1 }

/-- At the end of an event that began at `before`: the detaches that the event completes, their records after those of the
commands completed in the event (R161; R181, fifth point; log 10). -/
def Directory.settle (d : Directory) (now : Tick) (before : Directory) : Directory :=
  d.completeDetaches now (before.emptied d)

/-- Cause DETACH is handed over for agent `k` in slot `i`, if it holds there (R158). -/
def Directory.handOverDetach (d : Directory) (now : Tick) (k : Agent) (force : Bool) (i : SlotId) : Directory :=
  match d.window i with
  | none => d
  | some w =>
    if (w.holding k).held then
      let d := if w.context.isSome then d.addCause i (.detach k) else d.createContext i (.detach k) false
      (d.mergeTarget now force i k .none).checkCompletion now i
    else d

/-- An accepted AGENT_DETACH, steps 1 to 3 (R157). -/
def Directory.startDetach (d : Directory) (now : Tick) (k : Agent) (tag : Tag) (force : Bool) : Directory :=
  let d := d.modAgent k fun a => { a with state := .detaching, detach := some { tag := tag, forced := 0 } }
  let d := d.liveSlots.foldl (fun d i => d.leaveWaiters now k i) d
  d.liveSlots.foldl (fun d i => d.handOverDetach now k force i) d

/-- ABORT of a parked AGENT_DETACH, steps 1 to 3 (R162). -/
def Directory.abortDetach (d : Directory) (now : Tick) (k : Agent) : Directory :=
  let d := d.modAgent k fun a => { a with state := .online }
  let d := (d.detachSlots k).foldl (fun d i => d.leaveDetach now k false i) d
  d.endDetach k .aborted

end Sys2Proof.Machine
end

