-- ==== Sys2Proof/Machine/Windows.lean ====
section
/-! DEFINITION. The Command Engine's taking (R177, R178) and the commands on windows (spec files 01, 06, 07): OPEN, QUERY,
QUERY_ADDR, REVISE, RETIRE, WATCH. -/

namespace Sys2Proof.Machine

/-! ### Taking a command (R177, R178) -/

/-- The sum of the two lists leaves a place (R177). -/
def Directory.placeFree (d : Directory) : Bool :=
  decide (d.parked.length + d.completions.length < Config.resultPlaces)

/-- The record of the command taken. -/
def Directory.reply (d : Directory) (e : Entry) (status : Status) (word1 : Word) : Directory :=
  d.record (Record.short e.tag e.kind status word1)

/-- The taking of the oldest queued command, if `wants` accepts its kind code: the entry leaves the queue and `run` is its
effect. Where the oldest entry is of another kind, or none waits, or no place is free, this event does not occur (log 1). -/
def State.takeEntry (s : State) (wants : BitVec 4 → Bool) (run : Directory → Entry → Directory) : State :=
  match s.commandQueue with
  | [] => s
  | e :: rest =>
    if wants e.kind && s.directory.placeFree then { s with commandQueue := rest, directory := run s.directory e } else s

/-- A parked command carries the tag. -/
def Directory.tagInUse (d : Directory) (t : Tag) : Bool := d.parked.any (·.tag == t)

/-- The taking of a command of this kind, refused TAG_IN_USE before its own checks (R178). -/
def State.takeCommand (s : State) (kind : CommandKind) (run : Directory → Entry → Directory) : State :=
  s.takeEntry (· == kind.code) fun d e => if d.tagInUse e.tag then d.reply e .tagInUse 0 else run d e

/-- A PARAM word of an entry. -/
def Entry.param (e : Entry) (n : Fin 8) : Word := look e.params n

/-! ### The checks of a field set (R13, R14) -/

def SuppliedFields.sizeNamed (f : SuppliedFields) : Bool := decide (12 ≤ f.size.toNat ∧ f.size.toNat ≤ 36)

def SuppliedFields.rightsNamed (f : SuppliedFields) : Bool := allAgents.all fun k => (Right.ofCode (f.rightCode k)).isSome

/-- The checks of R13, in order. No other field has a code that names no value (file 11). -/
def SuppliedFields.fault (f : SuppliedFields) : Option Status :=
  let s := if f.sizeNamed then f.size.toNat else 12
  if f.targetBase.toNat % 4096 ≠ 0 ∨ f.agentBase.toNat % 2 ^ s ≠ 0 then some .misaligned
  else if !f.sizeNamed then some .badSize
  else if 2 ^ 40 < f.targetBase.toNat + 2 ^ f.size.toNat ∨ !f.rightsNamed then some .badField
  else none

/-- The field set as supplied. -/
def SuppliedFields.fieldSet (f : SuppliedFields) : FieldSet :=
  { agentBase := f.agentBase
    size := f.size
    targetBase := f.targetBase
    rights := Vector.ofFn fun k => (Right.ofCode (f.rightCode k)).getD .none
    cacheable := f.cacheable
    adviseRo := f.adviseRo
    tag := f.tag
    idleLimit := f.idleLimit }

/-- The current range of the window, or that of its pending revision, meets a proposed range. -/
def Window.meets (w : Window) (f : FieldSet) : Bool := w.fields.overlaps f || w.revision.any (·.fields.overlaps f)

/-- The overlap check (R14), against every window but the one in slot `except`. -/
def Directory.overlapFound (d : Directory) (except : Option SlotId) (f : FieldSet) : Bool :=
  allSlots.any fun i => except != some i && (d.window i).any (·.meets f)

/-! ### OPEN (R17) -/

/-- A window after OPEN. -/
def FieldSet.opened (f : FieldSet) (now : Tick) : Window :=
  Window.armIdle
    { fields := f
      lastGrant := now
      idle := none
      holdings := Vector.replicate 8 .none
      pins := Vector.replicate 8 0
      waiters := []
      reservation := none
      revision := none
      context := none
      watch := none
      retireTag := none } now

def Directory.lowestFree (d : Directory) : Option SlotId := allSlots.find? fun i => (d.window i).isNone

def Directory.fillSlot (d : Directory) (i : SlotId) (w : Window) : Directory :=
  { d with slots := put d.slots i { look d.slots i with window := some w } }

/-- The checks of OPEN, then the window in the lowest FREE slot. -/
def Directory.openWindow (d : Directory) (now : Tick) (e : Entry) : Directory :=
  let f := SuppliedFields.ofParams e.params
  match d.lowestFree with
  | none => d.reply e .tableFull 0
  | some i =>
    match f.fault with
    | some status => d.reply e status 0
    | none =>
      if d.overlapFound none f.fieldSet then d.reply e .overlap 0
      else
        let d := d.fillSlot i (f.fieldSet.opened now)
        d.reply e .done (d.handleWord i)

/-- OPEN (R17). -/
def execOpenWindow (s : State) : Host.Outcome State Fault Refusal :=
  .next (s.takeCommand .openWindow fun d e => d.openWindow s.clock e)

/-! ### QUERY, QUERY_ADDR (R18, R19) -/

/-- The DONE record of QUERY. -/
def Window.queryRecord (w : Window) (e : Entry) (word1 : Word) : Record :=
  { tag := e.tag, kind := e.kind, status := .done, word1 := word1, word2 := w.stateWord, word3 := w.pinsWord,
    word4 := w.waitWord, word5 := w.recallWord }

def Directory.query (d : Directory) (e : Entry) : Directory :=
  let h := handleField (e.param 0)
  match (d.checkHandle h).bind d.window with
  | none => d.reply e .staleHandle (h.setWidth 32)
  | some w => d.record (w.queryRecord e (h.setWidth 32))

/-- QUERY (R18). -/
def execQuery (s : State) : Host.Outcome State Fault Refusal := .next (s.takeCommand .query fun d e => d.query e)

def Directory.queryAddr (d : Directory) (e : Entry) : Directory :=
  match d.matched (addressOf (e.param 0) (e.param 1)) with
  | none => d.reply e .notFound 0
  | some (i, _) => d.reply e .done (d.handleWord i)

/-- QUERY_ADDR (R19). -/
def execQueryAddr (s : State) : Host.Outcome State Fault Refusal :=
  .next (s.takeCommand .queryAddr fun d e => d.queryAddr e)

/-! ### REVISE (R121 to R125) -/

/-- The level a holding must come down to under a new right (R122). -/
def Right.limit (r : Right) (h : Holding) : Option Level :=
  match r, h with
  | .none, .shared | .none, .owner => some .none
  | .read, .owner => some .shared
  | .read, .shared | .write, .shared | .write, .owner => Option.none
  | .none, .none | .read, .none | .write, .none => Option.none

/-- The location or the cacheability changes (R122). -/
def FieldSet.moved (f g : FieldSet) : Bool :=
  f.agentBase != g.agentBase || f.size != g.size || f.targetBase != g.targetBase || f.cacheable != g.cacheable

/-- The affected holdings of a REVISE to the field set `f` (R122). -/
def Window.affected (w : Window) (f : FieldSet) : List (Agent × Level) :=
  if w.fields.moved f then w.allHolders
  else allAgents.filterMap fun k => ((look f.rights k).limit (w.holding k)).map fun l => (k, l)

/-- Steps 1 to 4 of a REVISE applied at once (R123). -/
def Directory.applyNow (d : Directory) (now : Tick) (i : SlotId) (f : FieldSet) : Directory :=
  (d.modWindow i fun w => { w with reservation := none, fields := f }.armIdle w.lastGrant).headService now i

/-- A pending revision is stored (R124, step 1). -/
def Directory.stage (d : Directory) (i : SlotId) (p : PendingRevision) : Directory :=
  d.modWindow i fun w => { w with revision := some p }

/-- Force turns on, and the Blocked set is revoked (R95, R101). -/
def Directory.turnForceOn (d : Directory) (i : SlotId) : Directory := (d.setForce i true).revokeBlocked i

/-- REVISION joins a running recall. By the steps of R125 the force acts, and then the targets are merged; by R99 the Force of R95
follows the merge of every join, and finds no agent left in the Blocked set to revoke (R101; log 11). -/
def Directory.joinRevision (d : Directory) (now : Tick) (i : SlotId) (force : Bool) (targets : List (Agent × Level)) :
    Directory :=
  let d := d.addCause i .revision
  let d := if force then d.turnForceOn i else d
  let d := d.mergeTargets now i targets
  if force then d.turnForceOn i else d

/-- Cause REVISION is handed over, up to the completion check (R124, R125). -/
def Directory.handOverRevision (d : Directory) (now : Tick) (i : SlotId) (force : Bool) (targets : List (Agent × Level)) :
    Directory :=
  let d := if (d.context i).isSome then d.joinRevision now i force targets else d.startRecall now i .revision force targets
  d.checkCompletion now i

/-- The window of slot `i` holds a pending revision. -/
def Directory.revising (d : Directory) (i : SlotId) : Bool := (d.window i).any (·.revision.isSome)

/-- A REVISE that is not applied at once (R124, R125): it completes with its recall in this event, or it parks. -/
def Directory.reviseLater (d : Directory) (now : Tick) (i : SlotId) (w : Window) (e : Entry) (f : FieldSet) (force : Bool) :
    Directory :=
  let d' := (d.stage i { fields := f, force := force, tag := e.tag }).handOverRevision now i force (w.affected f)
  (if d'.revising i then d'.park { tag := e.tag, work := .revise i } else d').settle now d

/-- An accepted REVISE (R123, R124, R125). -/
def Directory.acceptRevise (d : Directory) (now : Tick) (i : SlotId) (w : Window) (e : Entry) (f : FieldSet) (force : Bool) :
    Directory :=
  if w.context.isNone && (w.affected f).isEmpty then (d.applyNow now i f).reply e .done (d.handleWord i)
  else d.reviseLater now i w e f force

/-- The checks of REVISE (R121). -/
def Directory.revise (d : Directory) (now : Tick) (e : Entry) : Directory :=
  let h := handleField (e.param 5)
  let f := SuppliedFields.ofParams e.params
  let refuse := fun status => d.reply e status (h.setWidth 32)
  match d.checkHandle h with
  | none => refuse .staleHandle
  | some i =>
    match d.window i with
    | none => refuse .staleHandle
    | some w =>
      if w.state = .retiring then refuse .retiring
      else if w.state = .revising then refuse .busy
      else
        match f.fault with
        | some status => refuse status
        | none =>
          if d.overlapFound (some i) f.fieldSet then refuse .overlap
          else d.acceptRevise now i w e f.fieldSet (forceField (e.param 5))

/-- REVISE (R121). -/
def execRevise (s : State) : Host.Outcome State Fault Refusal :=
  .next (s.takeCommand .revise fun d e => d.revise s.clock e)

/-! ### RETIRE (R132 to R135) -/

/-- RETIRE supersedes a pending revision (R133). The Blocked set is revoked with RETIRE's own targets, once these are merged
(R99, R135; log 12). -/
def Directory.supersede (d : Directory) (i : SlotId) (force : Bool) : Directory :=
  match (d.window i).bind (·.revision) with
  | none => d
  | some p =>
    let d := d.modWindow i fun w =>
      { w with revision := none }.modContext fun c => { c with revision := false, retire := true, force := force }
    d.finish (Record.counted p.tag .revise .superseded (d.handleWord i) (d.forcedWord i))

/-- The waiter list and the reservation go, and the Retire Tag is set (R134). -/
def Directory.emptyForRetire (d : Directory) (i : SlotId) (tag : Tag) : Directory :=
  d.modWindow i fun w => { w with reservation := none, waiters := [], retireTag := some tag }

/-- Cause RETIRE is handed over, up to the completion check (R135). -/
def Directory.handOverRetire (d : Directory) (now : Tick) (i : SlotId) (force : Bool) : Directory :=
  match d.window i with
  | none => d
  | some w =>
    let d :=
      if w.context.isSome then
        let d := (d.addCause i .retire).mergeTargets now i w.allHolders
        if force then d.turnForceOn i else d.setForce i false
      else d.startRecall now i .retire force w.allHolders
    d.checkCompletion now i

/-- An accepted RETIRE: it completes in this event, or it parks. -/
def Directory.acceptRetire (d : Directory) (now : Tick) (i : SlotId) (e : Entry) (force : Bool) : Directory :=
  let d' := ((d.supersede i force).emptyForRetire i e.tag).handOverRetire now i force
  (if (d'.window i).isSome then d'.park { tag := e.tag, work := .retire i } else d').settle now d

/-- The checks of RETIRE (R132). -/
def Directory.retire (d : Directory) (now : Tick) (e : Entry) : Directory :=
  let h := handleField (e.param 0)
  match d.checkHandle h with
  | none => d.reply e .staleHandle (h.setWidth 32)
  | some i =>
    if (look d.slots i).state = .retiring then d.reply e .retiring (h.setWidth 32)
    else d.acceptRetire now i e (forceField (e.param 0))

/-- RETIRE (R132). -/
def execRetire (s : State) : Host.Outcome State Fault Refusal :=
  .next (s.takeCommand .retire fun d e => d.retire s.clock e)

/-! ### WATCH (R150) -/

/-- The watch a WATCH entry describes (file 11, PARAM1). -/
def Entry.watch (e : Entry) : Watch :=
  { agents := field (e.param 1) 0 8, reads := (e.param 1).getLsbD 8, writes := (e.param 1).getLsbD 9, tag := e.tag }

/-- The checks of WATCH, then the watch. -/
def Directory.startWatch (d : Directory) (e : Entry) : Directory :=
  let h := handleField (e.param 0)
  let refuse := fun status => d.reply e status (h.setWidth 32)
  match d.checkHandle h with
  | none => refuse .staleHandle
  | some i =>
    match d.window i with
    | none => refuse .staleHandle
    | some w =>
      if w.state = .retiring then refuse .retiring
      else if w.watch.isSome then refuse .busy
      else if e.watch.agents = 0 ∨ (!e.watch.reads && !e.watch.writes) then refuse .badField
      else (d.modWindow i fun w => { w with watch := some e.watch }).park { tag := e.tag, work := .watch i }

/-- WATCH (R150). -/
def execWatch (s : State) : Host.Outcome State Fault Refusal := .next (s.takeCommand .watch fun d e => d.startWatch e)

end Sys2Proof.Machine
end

