-- ==== Sys2Proof/Machine/Engine.lean ====
section
/-! DEFINITION. The Command Engine's remaining commands (spec files 02, 08, 09): ABORT, AGENT_ADMIT, AGENT_SET, AGENT_QUERY,
AGENT_DETACH, AGENT_FENCE, UNKNOWN_COMMAND. -/

namespace Sys2Proof.Machine

/-! ### ABORT (R182, R130, R153, R162) -/

/-- ABORT of a parked REVISE, steps 1 to 3 (R130). -/
def Directory.abortRevision (d : Directory) (now : Tick) (i : SlotId) (tag : Tag) : Directory :=
  let forced := d.forcedWord i
  let d := d.modWindow i fun w =>
    { w with revision := none }.modContext fun c => { c with revision := false, force := false }
  (d.afterCauseLeft now i).finish (Record.counted tag .revise .aborted (d.handleWord i) forced)

/-- ABORT of a parked WATCH (R153). -/
def Directory.abortWatch (d : Directory) (i : SlotId) (tag : Tag) : Directory :=
  (d.modWindow i fun w => { w with watch := none }).finish (Record.counted tag .watch .aborted (d.handleWord i) 0)

/-- Ends the parked command an ABORT names; `none` where it cannot be aborted (R138, R182). -/
def Directory.abortWork (d : Directory) (now : Tick) (p : Parked) : Option Directory :=
  match p.work with
  | .revise i => some (d.abortRevision now i p.tag)
  | .retire _ => none
  | .watch i => some (d.abortWatch i p.tag)
  | .detach k => some (d.abortDetach now k)

/-- The tag an ABORT names. -/
def Entry.namedTag (e : Entry) : Tag := field (e.param 0) 0 8

/-- The checks of ABORT, the end of the named command, and the ABORT's own record (R182). -/
def Directory.abort (d : Directory) (now : Tick) (e : Entry) : Directory :=
  let word1 := e.namedTag.setWidth 32
  match d.parked.find? (·.tag == e.namedTag) with
  | none => d.reply e .notFound word1
  | some p =>
    match d.abortWork now p with
    | none => d.reply e .notAbortable word1
    | some d' => d'.reply e .done word1

/-- ABORT (R182). -/
def execAbort (s : State) : Host.Outcome State Fault Refusal :=
  .next (s.takeCommand .abort fun d e => d.abort s.clock e)

/-! ### The agent commands (R27, R28, R29) -/

/-- The agent number as supplied, which word 1 of every record of an agent command holds. -/
def Entry.agentWord (e : Entry) : Word := (agentField (e.param 0)).setWidth 32

/-- An agent command: BAD_FIELD where the number names no agent, and otherwise `run` for the agent. -/
def Directory.forAgent (d : Directory) (e : Entry) (run : Agent → Directory) : Directory :=
  match agentOf (agentField (e.param 0)) with
  | none => d.reply e .badField e.agentWord
  | some k => run k

/-- The agent is in service: ONLINE or DETACHING. -/
def AgentState.inService : AgentState → Bool
  | .online | .detaching => true
  | .offline | .fenced => false

/-- The record of an agent after AGENT_ADMIT (R27). Holding Count, queue and backlog are unchanged, being 0 and empty by R24
(log 20). -/
def AgentRecord.admitted (a : AgentRecord) (x : Settings) : AgentRecord :=
  { a with state := .online, settings := x, faultScore := 0, detach := none }

/-- The checks of AGENT_ADMIT, then the admission. -/
def Directory.admitAgent (d : Directory) (e : Entry) : Directory :=
  let x := Settings.ofWord (e.param 1)
  d.forAgent e fun k =>
    if !x.named then d.reply e .badField e.agentWord
    else if (d.agent k).state.inService then d.reply e .badState e.agentWord
    else (d.modAgent k (·.admitted x)).reply e .done e.agentWord

/-- AGENT_ADMIT (R27). -/
def execAgentAdmit (s : State) : Host.Outcome State Fault Refusal :=
  .next (s.takeCommand .agentAdmit fun d e => d.admitAgent e)

/-- The checks of AGENT_SET, then the new settings. -/
def Directory.setSettings (d : Directory) (e : Entry) : Directory :=
  let x := Settings.ofWord (e.param 1)
  d.forAgent e fun k =>
    if !x.named then d.reply e .badField e.agentWord
    else if !(d.agent k).state.inService then d.reply e .badState e.agentWord
    else (d.modAgent k fun a => { a with settings := x }).reply e .done e.agentWord

/-- AGENT_SET (R28). -/
def execAgentSet (s : State) : Host.Outcome State Fault Refusal :=
  .next (s.takeCommand .agentSet fun d e => d.setSettings e)

/-- The DONE record of AGENT_QUERY (R29). -/
def Directory.agentRecord (d : Directory) (e : Entry) (k : Agent) : Record :=
  { tag := e.tag, kind := e.kind, status := .done, word1 := e.agentWord, word2 := (d.agent k).stateWord,
    word3 := d.queueWord k, word4 := (d.agent k).settings.word, word5 := 0 }

def Directory.queryAgent (d : Directory) (e : Entry) : Directory := d.forAgent e fun k => d.record (d.agentRecord e k)

/-- AGENT_QUERY (R29). -/
def execAgentQuery (s : State) : Host.Outcome State Fault Refusal :=
  .next (s.takeCommand .agentQuery fun d e => d.queryAgent e)

/-! ### AGENT_DETACH, AGENT_FENCE (R156, R157, R166) -/

/-- An accepted AGENT_DETACH: it completes in this event where the Holding Count is 0, and parks otherwise (R157). -/
def Directory.acceptDetach (d : Directory) (now : Tick) (e : Entry) (k : Agent) : Directory :=
  let d := d.startDetach now k e.tag (forceField (e.param 0))
  if (d.agent k).holdingCount = 0 then d.completeDetach now k else d.park { tag := e.tag, work := .detach k }

/-- The checks of AGENT_DETACH (R156). -/
def Directory.detachAgent (d : Directory) (now : Tick) (e : Entry) : Directory :=
  d.forAgent e fun k =>
    if (d.agent k).state = .online then d.acceptDetach now e k else d.reply e .badState e.agentWord

/-- AGENT_DETACH (R157). -/
def execAgentDetach (s : State) : Host.Outcome State Fault Refusal :=
  .next (s.takeCommand .agentDetach fun d e => d.detachAgent s.clock e)

/-- The checks of AGENT_FENCE, then the fence (R166). -/
def Directory.fenceAgent (d : Directory) (now : Tick) (e : Entry) : Directory :=
  d.forAgent e fun k =>
    if (d.agent k).state.inService then (d.fence now k).reply e .done e.agentWord else d.reply e .badState e.agentWord

/-- AGENT_FENCE (R166). -/
def execAgentFence (s : State) : Host.Outcome State Fault Refusal :=
  .next (s.takeCommand .agentFence fun d e => d.fenceAgent s.clock e)

/-! ### UNKNOWN_COMMAND (R178) -/

/-- UNKNOWN_COMMAND (R178): checked before TAG_IN_USE. -/
def execUnknownCommand (s : State) : Host.Outcome State Fault Refusal :=
  .next (s.takeEntry (fun c => !namesCommand c) fun d e => d.reply e .unknownCommand 0)

end Sys2Proof.Machine
end

