-- ==== Sys2Proof/Machine/Registers.lean ====
section
/-! DEFINITION. The management port's registers (spec files 09, 10, 11): writes, reads, and the directory reset. The commands
COMPLETION_POP, CLOCK_RESOLUTION_SET, DIRECTORY_RESET, INT_ENABLE_WRITE, ALERT_STATUS_CLEAR, ALERT_AGENTS_CLEAR,
REGISTER_WRITE. -/

namespace Sys2Proof.Machine

/-! ### Writes, one operation per register -/

/-- A PARAM register takes the value written (R174). -/
def State.setParam (s : State) (n : Fin 8) (v : Word) : State := { s with params := put s.params n v }

/-- The entry a COMMAND write makes (R175; fields by file 11). -/
def State.entryOf (s : State) (v : Word) : Entry := { kind := field v 16 4, tag := field v 0 8, params := s.params }

/-- A write to COMMAND (R175): a new entry, or COMMAND_OVERRUN where the queue is full. -/
def State.submit (s : State) (v : Word) : State :=
  if s.commandQueue.length < Config.commandPlaces then { s with commandQueue := s.commandQueue ++ [s.entryOf v] }
  else { s with directory := s.directory.modAlerts (·.setCommandOverrun) }

/-- A write to COMPLETION_POP (R184): the head record leaves; an empty queue ignores it. -/
def State.popCompletion (s : State) : State :=
  { s with directory := { s.directory with completions := s.directory.completions.tail } }

/-- The resolution field of a CONTROL write (R142, R186). -/
def State.setResolution (s : State) (r : Resolution) : State := { s with resolution := r }

/-- A write to INT_ENABLE (R192). -/
def State.setEnables (s : State) (v : Word) : State := { s with enables := Enables.ofWord v }

/-- A write to ALERT_STATUS (R191). -/
def State.clearAlertStatus (s : State) (v : Word) : State :=
  { s with directory := s.directory.modAlerts (·.clearStatus v) }

/-- A write to ALERT_AGENTS (R191). -/
def State.clearAlertAgents (s : State) (v : Word) : State :=
  { s with directory := s.directory.modAlerts (·.clearAgents v) }

/-! ### Directory reset (R187) -/

/-- A slot at directory reset: a live one is freed, a FREE one is unchanged (R21). -/
def Slot.afterReset (x : Slot) : Slot :=
  match x.window with
  | none => x
  | some _ => { generation := x.generation + 1, window := none }

/-- The records after a directory reset (R21, R41, R187); the free choices go on (log 14). -/
def Directory.afterReset (d : Directory) : Directory :=
  { Directory.initial with slots := d.slots.map (·.afterReset), choices := d.choices }

/-- The machine after a directory reset. Ports, response lanes, resolution and enables are kept (R69, R187). -/
def State.directoryReset (s : State) : State :=
  { s with
    directory := s.directory.afterReset
    pointer := 7
    clock := 0
    params := Vector.replicate 8 0
    commandQueue := [] }

/-- A write to CONTROL: the resolution first, then the directory reset (R186). -/
def State.writeControl (s : State) (v : Word) : State :=
  let s := s.setResolution (field v 0 2)
  if v.getLsbD 8 then s.directoryReset else s

/-! ### The register map (R172) -/

/-- The registers of the window. -/
inductive Register where
  | id | status | control | intEnable | alertStatus | alertAgents | clock
  | param (n : Fin 8)
  | command
  | completion (n : Fin 6)
  | completionPop
  | reserved
  deriving DecidableEq, Repr

/-- The register at offset 4 × `index`. -/
def Register.at (index : BitVec 5) : Register :=
  let n := index.toNat
  if n = 0 then .id
  else if n = 1 then .status
  else if n = 2 then .control
  else if n = 3 then .intEnable
  else if n = 4 then .alertStatus
  else if n = 5 then .alertAgents
  else if n = 6 then .clock
  else if 8 ≤ n ∧ n < 16 then .param ⟨(n - 8) % 8, Nat.mod_lt _ (by decide)⟩
  else if n = 16 then .command
  else if 17 ≤ n ∧ n < 23 then .completion ⟨(n - 17) % 6, Nat.mod_lt _ (by decide)⟩
  else if n = 23 then .completionPop
  else .reserved

/-- A write to a register (R172). -/
def State.writeRegister (s : State) (r : Register) (v : Word) : State :=
  match r with
  | .control => s.writeControl v
  | .intEnable => s.setEnables v
  | .alertStatus => s.clearAlertStatus v
  | .alertAgents => s.clearAlertAgents v
  | .param n => s.setParam n v
  | .command => s.submit v
  | .completionPop => s.popCompletion
  | .id | .status | .clock | .completion _ | .reserved => s

/-- STATUS as read (R173). -/
def State.statusWord (s : State) : Word :=
  place 32 0 (bit s.interruptLine) ||| place 32 8 (BitVec.ofNat 3 s.commandQueue.length) |||
    place 32 16 (BitVec.ofNat 5 s.directory.parked.length) |||
    place 32 24 (BitVec.ofNat 5 s.directory.completions.length)

/-- A read of a register (R172); it changes no state (log 19). -/
def State.readRegister (s : State) (r : Register) : Word :=
  match r with
  | .id => 0x04200001
  | .status => s.statusWord
  | .control => place 32 0 s.resolution
  | .intEnable => s.enables.word
  | .alertStatus => s.directory.alerts.statusWord
  | .alertAgents => s.directory.alerts.agentsWord
  | .clock => s.clock
  | .param n => look s.params n
  | .completion n => (s.directory.completions.head?.map (·.word n)).getD 0
  | .command | .completionPop | .reserved => 0

/-! ### The meanings -/

/-- COMPLETION_POP (R184); the value is ignored. -/
def execCompletionPop (_value : Word) (s : State) : Host.Outcome State Fault Refusal := .next s.popCompletion

/-- CLOCK_RESOLUTION_SET (R142): the counter and every tick value keep their values. -/
def execClockResolutionSet (resolution : Resolution) (s : State) : Host.Outcome State Fault Refusal :=
  .next (s.setResolution resolution)

/-- DIRECTORY_RESET (R186, R187): the resolution field first, then the reset. -/
def execDirectoryReset (resolution : Resolution) (s : State) : Host.Outcome State Fault Refusal :=
  .next (s.setResolution resolution).directoryReset

/-- INT_ENABLE_WRITE (R192). -/
def execIntEnableWrite (value : Word) (s : State) : Host.Outcome State Fault Refusal := .next (s.setEnables value)

/-- ALERT_STATUS_CLEAR (R191). -/
def execAlertStatusClear (value : Word) (s : State) : Host.Outcome State Fault Refusal :=
  .next (s.clearAlertStatus value)

/-- ALERT_AGENTS_CLEAR (R191). -/
def execAlertAgentsClear (value : Word) (s : State) : Host.Outcome State Fault Refusal :=
  .next (s.clearAlertAgents value)

/-- REGISTER_WRITE (R172). -/
def execRegisterWrite (index : BitVec 5) (value : Word) (s : State) : Host.Outcome State Fault Refusal :=
  .next (s.writeRegister (Register.at index) value)

end Sys2Proof.Machine
end

