-- ==== Sys2Proof/Machine/Requests.lean ====
section
/-! DEFINITION. Ports, the Decision Unit and the decisions of the request kinds (spec files 03 and 04): the commands
REQUEST_ACCEPTED, FETCH, SHARE, CLAIM, STORE, RELEASE, PIN, UNPIN, WITHDRAW, BAD_REQUEST, VERDICT_RETURNED, NOTICE_TAKEN. -/

namespace Sys2Proof.Machine

/-! ### Verdicts (R47) -/

/-- A verdict with no matched window. -/
def Verdict.unmatched (decision : Decision) (target : Addr) : Verdict :=
  { decision := decision, target := target, holding := .none, uncached := true, adviseRo := false, tag := 0, handle := 0 }

/-- A verdict for a matched window with these fields; target address and handle are carried by a GRANT alone. -/
def FieldSet.verdict (f : FieldSet) (decision : Decision) (holding : Holding) (address : Addr) (handle : Handle) : Verdict :=
  { decision := decision
    target := if decision = .grant then f.translate address else 0
    holding := holding
    uncached := !f.cacheable
    adviseRo := f.adviseRo
    tag := f.tag
    handle := if decision = .grant then handle else 0 }

/-- The verdict of a request that leaves the requester's holding as it stands in slot `i`, whose window is `w`. -/
def Directory.answer (d : Directory) (i : SlotId) (w : Window) (k : Agent) (a : Addr) (decision : Decision) : Verdict :=
  w.fields.verdict decision (w.holding k) a (d.handle i)

/-! ### The gates of the check sequence (R49) -/

/-- Stage 1: the reason an agent's every request is denied for (R50). -/
def AgentRecord.denial (a : AgentRecord) : Option DenyReason :=
  match a.state with
  | .offline => some .offline
  | .fenced => some .fenced
  | .online | .detaching => none

/-- The agent is DETACHING. -/
def Directory.detaching (d : Directory) (k : Agent) : Bool := (d.agent k).state == .detaching

/-- Stage 2 for the kinds that read or write: Length is 1–4096 (R51). -/
def Request.lengthValid (r : Request) : Bool := decide (1 ≤ r.length.toNat ∧ r.length.toNat ≤ 4096)

/-- Stage 3 for an access that matches no window (R52). -/
def AgentRecord.unmatchedVerdict (a : AgentRecord) (r : Request) : Verdict :=
  match a.settings.unmatched with
  | .deny => Verdict.unmatched (.deny .noWindow) 0
  | .pass => Verdict.unmatched .pass r.address

/-- Stage 4: the access ends within the window (R53). -/
def Request.fits (r : Request) (f : FieldSet) : Bool :=
  decide (r.address.toNat + r.length.toNat ≤ f.agentBase.toNat + f.bytes)

/-! ### Effects of a grant (R67, R151, R152) -/

/-- The kind as decided is in a class of the kind mask (R151). -/
def Watch.kinds (x : Watch) : AccessKind → Bool
  | .fetch | .share => x.reads
  | .claim | .store => x.writes

/-- The record of a hit (R152). -/
def Watch.hitRecord (x : Watch) (handle : Word) (f : FieldSet) (k : Agent) (kind : AccessKind) (a : Addr) : Record :=
  let offset := a - f.agentBase
  { Record.short x.tag CommandKind.watch.code .done handle with
    word2 := place 32 0 (BitVec.ofNat 3 k.val) ||| place 32 8 kind.code
    word3 := field offset 0 32
    word4 := place 32 0 (field offset 32 4) }

/-- Reports a grant to the window's watch; a hit ends it (R151, R152). -/
def Directory.reportGrant (d : Directory) (i : SlotId) (k : Agent) (kind : AccessKind) (a : Addr) : Directory :=
  match d.window i with
  | none => d
  | some w =>
    match w.watch with
    | none => d
    | some x =>
      if x.agents.getLsbD k.val && x.kinds kind then
        (d.modWindow i fun w => { w with watch := none }).finish (x.hitRecord (d.handleWord i) w.fields k kind a)
      else d

/-- A granted FETCH, SHARE, CLAIM or STORE of a kind as decided (R67). `served`: the requester was the head in OPEN (R59). -/
def Directory.grantAccess (d : Directory) (now : Tick) (i : SlotId) (w : Window) (k : Agent) (a : Addr) (kind : AccessKind)
    (served : Bool) : Directory × Verdict :=
  let d := d.setHolding i k (kind.holdingAfter (w.holding k))
  let d := d.modWindow i (·.granted now)
  let d :=
    if served then (d.modWindow i fun w => { w.unlist k with reservation := none }).headService now i else d
  let held := (d.window i).getD w
  (d.reportGrant i k kind a, d.answer i held k a .grant)

/-! ### The Window stage for accesses (R57 to R62, R81) -/

/-- The requester joins at the tail, or has its wanted kind set if it is on the list (R81). -/
def Window.enlist (w : Window) (k : Agent) (kind : AccessKind) : Window :=
  if w.listed k then
    { w with waiters := w.waiters.map fun x => if x.agent = k then { x with wanted := kind } else x }
  else { w with waiters := w.waiters ++ [{ agent := k, wanted := kind }] }

/-- The requester waits, unless it is DETACHING (R55). -/
def Directory.waitAccess (d : Directory) (i : SlotId) (w : Window) (k : Agent) (a : Addr) (kind : AccessKind)
    (reason : RetryReason) : Directory × Verdict :=
  if d.detaching k then (d, d.answer i w k a (.deny .detaching))
  else (d.modWindow i (·.enlist k kind), d.answer i w k a (.retry reason))

/-- A conflict in OPEN: the requester is the head, and a recall for cause WAITER starts (R58, R59, R74). -/
def Directory.recallForAccess (d : Directory) (now : Tick) (i : SlotId) (w : Window) (k : Agent) (a : Addr)
    (kind : AccessKind) : Directory × Verdict :=
  if d.detaching k then (d, d.answer i w k a (.deny .detaching))
  else
    let d := d.modWindow i (·.enlist k kind)
    let d := (d.startRecall now i .waiter false (w.conflicts k kind)).checkCompletion now i
    (d, d.answer i w k a (.retry .recalling))

/-- The Window stage of an access of a kind as decided. -/
def Directory.windowStage (d : Directory) (now : Tick) (i : SlotId) (w : Window) (k : Agent) (a : Addr)
    (kind : AccessKind) : Directory × Verdict :=
  let cls := kind.class (w.holding k)
  let conflict := w.conflicting k kind
  if cls = .holderAccess then d.grantAccess now i w k a kind false
  else
    match w.state with
    | .retiring => (d, d.answer i w k a (.deny .retiring))
    | .revising => (d, d.answer i w k a (.retry .revising))
    | .recalling =>
      if w.head = some k then (d, d.answer i w k a (.retry .recalling))
      else if cls.grows || conflict then d.waitAccess i w k a kind .queued
      else d.grantAccess now i w k a kind false
    | .opened | .free =>
      if w.reservation.isNone && w.waiters.isEmpty then
        if conflict then d.recallForAccess now i w k a kind else d.grantAccess now i w k a kind false
      else if w.head = some k then
        if conflict then d.recallForAccess now i w k a kind else d.grantAccess now i w k a kind true
      else if cls.grows || conflict then d.waitAccess i w k a kind .reserved
      else d.grantAccess now i w k a kind false

/-- Stages 4 to 7 of an access, for its matched window. -/
def Directory.matchedAccess (d : Directory) (now : Tick) (i : SlotId) (w : Window) (k : Agent) (r : Request)
    (sent : AccessKind) : Directory × Verdict :=
  let kind := sent.decided w.fields.cacheable
  if !r.fits w.fields then (d, d.answer i w k r.address (.deny .crosses))
  else if !(w.right k).allows kind then (d, d.answer i w k r.address (.deny .noRight))
  else if d.detaching k && (kind.class (w.holding k)).grows then (d, d.answer i w k r.address (.deny .detaching))
  else d.windowStage now i w k r.address kind

/-- The check sequence of a FETCH, SHARE, CLAIM or STORE (R49). -/
def Directory.decideAccess (d : Directory) (now : Tick) (k : Agent) (r : Request) (sent : AccessKind) :
    Directory × Verdict :=
  match (d.agent k).denial with
  | some reason => (d, Verdict.unmatched (.deny reason) 0)
  | none =>
    if !r.lengthValid then (d, Verdict.unmatched (.deny .badRequest) 0)
    else
      match d.matched r.address with
      | none => (d, (d.agent k).unmatchedVerdict r)
      | some (i, w) => d.matchedAccess now i w k r sent

/-- The check sequence of the kinds that pass stages 4 and 5 without a test: the Agent-state stage, then `decide` on the
matched window, or DENY NO_WINDOW (R52). -/
def Directory.decideOther (d : Directory) (k : Agent) (r : Request) (decide : SlotId → Window → Directory × Verdict) :
    Directory × Verdict :=
  match (d.agent k).denial with
  | some reason => (d, Verdict.unmatched (.deny reason) 0)
  | none =>
    match d.matched r.address with
    | none => (d, Verdict.unmatched (.deny .noWindow) 0)
    | some (i, w) => decide i w

/-! ### RELEASE (R65, R111, R112, R113) -/

/-- The agent's holding is at or below its target. -/
def RecallContext.satisfied (c : RecallContext) (k : Agent) (h : Holding) : Bool :=
  match look c.targets k with
  | none => true
  | some t => !h.above t

/-- Reports a lowered holding to the recall that waits on the agent (R111, R112). -/
def Directory.reportRelease (d : Directory) (now : Tick) (i : SlotId) (k : Agent) (h : Holding) : Directory :=
  match d.context i with
  | none => d
  | some c =>
    if (look c.members k).isMember && c.satisfied k h then
      let d := d.modContext i (·.setMember k .neither)
      let d := if (look c.members k).isOutstanding then (d.withdrawRecall i k).creditScore k else d
      d.checkCompletion now i
    else d

/-- The effects of a RELEASE that lowers the holding to `h`. -/
def Directory.lowerByRelease (d : Directory) (now : Tick) (i : SlotId) (k : Agent) (h : Holding) : Directory :=
  let before := d
  let d := d.setHolding i k h
  let d := if h = .none then d.setPins i k 0 else d
  (d.reportRelease now i k h).settle now before

/-- The verdict of a RELEASE: address, handle and attributes of the window as it stands at the taking (R46, R56; log 13,
log 27), with the holding as it stands after any completion stage (R111). -/
def Directory.releaseVerdict (before after : Directory) (i : SlotId) (w : Window) (k : Agent) (a : Addr) : Verdict :=
  { before.answer i w k a .grant with holding := ((after.window i).map (·.holding k)).getD .none }

/-- RELEASE to a level, decided at the Window stage alike in every state (R65). -/
def Directory.decideRelease (d : Directory) (now : Tick) (k : Agent) (a : Addr) (l : Level) (i : SlotId) (w : Window) :
    Directory × Verdict :=
  if (w.holding k).above l then
    let d' := d.lowerByRelease now i k l.holding
    (d', d.releaseVerdict d' i w k a)
  else (d, d.answer i w k a .grant)

/-! ### PIN, UNPIN, WITHDRAW (R76, R78, R79, R83) -/

/-- PIN, stages 6 and 7 (R55, R61, R62, R76). A PIN after a revocation under Force is granted where the agent is in no set, once
the window is OPEN or RECALLING (R77, R110); while Force itself stands the window is REVISING or RETIRING, where every PIN is turned
away (log 28, the model's choice of reading). -/
def Directory.decidePin (d : Directory) (now : Tick) (k : Agent) (a : Addr) (i : SlotId) (w : Window) :
    Directory × Verdict :=
  if d.detaching k then (d, d.answer i w k a (.deny .detaching))
  else if w.state = .revising then (d, d.answer i w k a (.retry .revising))
  else if w.state = .retiring then (d, d.answer i w k a (.deny .retiring))
  else if w.holding k = .none then (d, d.answer i w k a (.deny .notHolder))
  else if (d.member i k).isOutstanding then (d, d.answer i w k a (.retry .recalling))
  else if w.pinCount k = Config.pinLimit then (d, d.answer i w k a (.deny .pinLimit))
  else ((d.setPins i k (w.pinCount k + 1)).modWindow i (·.granted now), d.answer i w k a .grant)

/-- UNPIN (R78); at 0 a Blocked agent moves to the Outstanding set, with a RECALL that reaches it after the verdict (R79). -/
def Directory.decideUnpin (d : Directory) (now : Tick) (k : Agent) (a : Addr) (i : SlotId) (w : Window) :
    Directory × Verdict :=
  if w.pinCount k = 0 then (d, d.answer i w k a (.deny .notHolder))
  else
    let d' := (d.setPins i k (w.pinCount k - 1)).modWindow i (·.granted now)
    let d' :=
      if w.pinCount k = 1 && (d.member i k).isBlocked then (d'.enterOutstanding now i k).awaitVerdict i k else d'
    (d', d.answer i w k a .grant)

/-- WITHDRAW (R83). -/
def Directory.decideWithdraw (d : Directory) (now : Tick) (k : Agent) (a : Addr) (i : SlotId) (w : Window) :
    Directory × Verdict :=
  if w.state = .retiring then (d, d.answer i w k a (.deny .retiring))
  else (d.leaveWaiters now k i, d.answer i w k a .grant)

/-! ### The Decision Unit (R45, R46) -/

/-- The request a port holds WAITING. -/
def Port.request : Port → Option Request
  | .waiting r => some r
  | .empty | .answering _ => none

/-- The port the Decision Unit takes next, with its request: the first WAITING port counting upward from the one after the
pointer (R45). -/
def State.selected (s : State) : Option (Agent × Request) :=
  (allAgents.map fun n => s.pointer + 1 + n).findSome? fun k => (look s.ports k).request.map fun r => (k, r)

/-- The taking of a request whose kind code `wants` accepts (R43, R45, R46): the pointer moves to the port, the decision is made
with all its effects, and the port holds the verdict. Where the selected request is of another kind, or no port waits, this event
does not occur (log 1). -/
def State.takeRequest (s : State) (wants : BitVec 4 → Bool)
    (decide : Directory → Agent → Request → Directory × Verdict) : State :=
  match s.selected with
  | none => s
  | some (k, r) =>
    if wants r.kind then
      let out := decide s.directory k r
      { s with directory := out.1, ports := put s.ports k (.answering out.2), pointer := k }
    else s

/-- The kind code names this kind. -/
def RequestKind.is (kind : RequestKind) (c : BitVec 4) : Bool := RequestKind.ofCode c == some kind

/-! ### The meanings -/

/-- REQUEST_ACCEPTED (R43, R44): an EMPTY port accepts the message and is WAITING; in another state the message stays on the
link (log 1). -/
def execRequestAccepted (k : Agent) (message : BitVec 64) (s : State) : Host.Outcome State Fault Refusal :=
  .next <|
    match look s.ports k with
    | .empty => { s with ports := put s.ports k (.waiting (Request.ofMessage message)) }
    | .waiting _ | .answering _ => s

/-- FETCH (R63). -/
def execFetch (s : State) : Host.Outcome State Fault Refusal :=
  .next (s.takeRequest (RequestKind.is (.access .fetch)) fun d k r => d.decideAccess s.clock k r .fetch)

/-- SHARE (R64). -/
def execShare (s : State) : Host.Outcome State Fault Refusal :=
  .next (s.takeRequest (RequestKind.is (.access .share)) fun d k r => d.decideAccess s.clock k r .share)

/-- CLAIM (R64). -/
def execClaim (s : State) : Host.Outcome State Fault Refusal :=
  .next (s.takeRequest (RequestKind.is (.access .claim)) fun d k r => d.decideAccess s.clock k r .claim)

/-- STORE (R63). -/
def execStore (s : State) : Host.Outcome State Fault Refusal :=
  .next (s.takeRequest (RequestKind.is (.access .store)) fun d k r => d.decideAccess s.clock k r .store)

/-- The check sequence of a RELEASE: its Level is checked at the Form stage (R51, R65). -/
def Directory.decideReleaseRequest (d : Directory) (now : Tick) (k : Agent) (r : Request) : Directory × Verdict :=
  match (d.agent k).denial, Level.ofCode r.level with
  | some reason, _ => (d, Verdict.unmatched (.deny reason) 0)
  | none, none => (d, Verdict.unmatched (.deny .badRequest) 0)
  | none, some l => d.decideOther k r fun i w => d.decideRelease now k r.address l i w

/-- RELEASE (R65). -/
def execRelease (s : State) : Host.Outcome State Fault Refusal :=
  .next (s.takeRequest (RequestKind.is .release) fun d k r => d.decideReleaseRequest s.clock k r)

/-- PIN (R76). -/
def execPin (s : State) : Host.Outcome State Fault Refusal :=
  .next (s.takeRequest (RequestKind.is .pin) fun d k r =>
    d.decideOther k r fun i w => d.decidePin s.clock k r.address i w)

/-- UNPIN (R78). -/
def execUnpin (s : State) : Host.Outcome State Fault Refusal :=
  .next (s.takeRequest (RequestKind.is .unpin) fun d k r =>
    d.decideOther k r fun i w => d.decideUnpin s.clock k r.address i w)

/-- WITHDRAW (R83). -/
def execWithdraw (s : State) : Host.Outcome State Fault Refusal :=
  .next (s.takeRequest (RequestKind.is .withdraw) fun d k r =>
    d.decideOther k r fun i w => d.decideWithdraw s.clock k r.address i w)

/-- The decision of a request whose kind code names no kind: the Agent-state stage, then DENY BAD_REQUEST (R49, R50, R51). -/
def AgentRecord.badRequestVerdict (a : AgentRecord) : Verdict :=
  Verdict.unmatched (.deny (a.denial.getD .badRequest)) 0

/-- BAD_REQUEST (R51): kind codes 8–15. -/
def execBadRequest (s : State) : Host.Outcome State Fault Refusal :=
  .next (s.takeRequest (fun c => (RequestKind.ofCode c).isNone) fun d k _ => (d, (d.agent k).badRequestVerdict))

/-- VERDICT_RETURNED (R43): the verdict goes out on the response lane and the port is EMPTY; a RECALL that waited for the verdict may
follow it (R79). -/
def execVerdictReturned (k : Agent) (s : State) : Host.Outcome State Fault Refusal :=
  .next <|
    match look s.ports k with
    | .answering v =>
      { s with
        directory := s.directory.verdictGiven k
        ports := put s.ports k .empty
        lanes := put s.lanes k { look s.lanes k with verdict := some v.message } }
    | .empty | .waiting _ => s

/-- NOTICE_TAKEN (R35): the agent receives the oldest notice of its queue, in every port state (R43). The one notice that waits is the
RECALL placed by the agent's own UNPIN, which reaches it after that UNPIN's verdict (R79): before that it is not taken (log 29). -/
def execNoticeTaken (k : Agent) (s : State) : Host.Outcome State Fault Refusal :=
  .next <|
    match (s.directory.agent k).notices with
    | [] => s
    | n :: _ =>
      if s.directory.heldBack k n then s
      else
        { s with
          directory := s.directory.takeNotice k n
          lanes := put s.lanes k { look s.lanes k with notice := some n.message } }

end Sys2Proof.Machine
end

