-- ==== Sys2Proof/Machine/Resets.lean ====
section
/-! DEFINITION. Agent reset (R169) and power-on (R20, R41, R188): the commands AGENT_RESET and POWER_ON. -/

namespace Sys2Proof.Machine

/-- The records at the assertion of agent `k`'s reset line (R169, steps 2 to 4). -/
def Directory.resetAgent (d : Directory) (now : Tick) (k : Agent) : Directory :=
  let d := d.modAgent k fun a => { a with state := .offline, faultScore := 0 }
  (d.agentLoss now k).modAlerts (·.setAgentReset k)

/-- AGENT_RESET (R169). -/
def execAgentReset (k : Agent) (s : State) : Host.Outcome State Fault Refusal :=
  .next { s with ports := put s.ports k .empty, directory := s.directory.resetAgent s.clock k }

/-- The machine right after power-on, with the events still pending and the free choices going on (log 14, log 23). -/
def State.powerOn (s : State) : State :=
  { State.reset with pending := s.pending, directory := { Directory.initial with choices := s.directory.choices } }

/-- POWER_ON (R20, R41, R188). -/
def execPowerOn (s : State) : Host.Outcome State Fault Refusal := .next s.powerOn

end Sys2Proof.Machine
end

