-- ==== Sys2Proof/Machine/Timers.lean ====
section
/-! DEFINITION. Tick values that pass (spec files 04, 05 and 07): the commands RECALL_DEADLINE, RESERVATION_LAPSE,
IDLE_DEADLINE and CLOCK_ADVANCE. A passing is taken while its tick value is marked due; otherwise the event does not occur
(log 1, log 5). -/

namespace Sys2Proof.Machine

/-! ### Recall deadlines (R105, R106, R107) -/

/-- The wait of agent `k` in the recall context of slot `i`, if its deadline has passed and has not been taken. -/
def Directory.dueWait (d : Directory) (i : SlotId) (k : Agent) : Option Wait :=
  match d.member i k with
  | .outstanding w => if w.deadline.due then some w else none
  | .neither | .blocked => none

/-- A retry (R106). -/
def Directory.retry (d : Directory) (now : Tick) (i : SlotId) (k : Agent) (w : Wait) : Directory :=
  let w := { w with retriesUsed := w.retriesUsed + 1 }
  let d := (d.modContext i (·.setMember k (.outstanding w))).addScore k 1
  if (d.agent k).fenceReached then d.fenceCheck now k
  else
    let w := { w with deadline := timer now (d.agent k).settings.timeout }
    let d := d.modContext i (·.setMember k (.outstanding w))
    if w.notice = .taken then d.placeRecallAgain i k else d

/-- A forced revocation on timeout (R107). -/
def Directory.revokeOnTimeout (d : Directory) (now : Tick) (i : SlotId) (k : Agent) : Directory :=
  let d := ((d.revoke i k false).addScore k 4).modAlerts (·.setForcedRevoke k)
  (d.fenceCheck now k).checkCompletion now i

/-- The passing of a recall deadline. -/
def Directory.passDeadline (d : Directory) (now : Tick) (i : SlotId) (k : Agent) (w : Wait) : Directory :=
  let after :=
    if w.retriesUsed < (d.agent k).settings.retries.toNat then d.retry now i k w else d.revokeOnTimeout now i k
  after.settle now d

/-- RECALL_DEADLINE (R105). -/
def execRecallDeadline (i : SlotId) (k : Agent) (s : State) : Host.Outcome State Fault Refusal :=
  .next <|
    match s.directory.dueWait i k with
    | none => s
    | some w => { s with directory := s.directory.passDeadline s.clock i k w }

/-! ### Reservation lapse (R91) -/

/-- The reservation of slot `i`, if its expiry has passed and has not been taken. -/
def Directory.dueReservation (d : Directory) (i : SlotId) : Option Reservation :=
  ((d.window i).bind (·.reservation)).filter (·.expiry.due)

/-- The reservation ends, its agent leaves the waiter list, and head service runs. -/
def Directory.lapse (d : Directory) (now : Tick) (i : SlotId) (r : Reservation) : Directory :=
  (d.modWindow i fun w => { w.unlist r.agent with reservation := none }).headService now i

/-- RESERVATION_LAPSE (R91). -/
def execReservationLapse (i : SlotId) (s : State) : Host.Outcome State Fault Refusal :=
  .next <|
    match s.directory.dueReservation i with
    | none => s
    | some r => { s with directory := s.directory.lapse s.clock i r }

/-! ### Idle deadlines (R146, R147) -/

/-- The four conditions under which an IDLE recall starts (R146). -/
def Window.quiet (w : Window) : Bool :=
  w.context.isNone && w.reservation.isNone && w.waiters.isEmpty && !w.unpinnedHolders.isEmpty

/-- The window of slot `i`, if its idle deadline has passed and has not been taken. -/
def Directory.dueIdle (d : Directory) (i : SlotId) : Option Window :=
  (d.window i).filter fun w => w.idle.any (·.due)

/-- The passing of an idle deadline: an IDLE recall with the deadline disarmed, or the deadline armed again. -/
def Directory.passIdle (d : Directory) (now : Tick) (i : SlotId) (w : Window) : Directory :=
  if w.quiet then
    let d := d.modWindow i fun w => { w with idle := none }
    (d.startRecall now i .idle false w.unpinnedHolders).checkCompletion now i
  else d.modWindow i (·.armIdle now)

/-- IDLE_DEADLINE (R146, R147). -/
def execIdleDeadline (i : SlotId) (s : State) : Host.Outcome State Fault Refusal :=
  .next <|
    match s.directory.dueIdle i with
    | none => s
    | some w => { s with directory := s.directory.passIdle s.clock i w }

/-! ### The clock (R141, R143, R144) -/

/-- The tick value passes at an advance to `now` if it is reached. -/
def Timer.advance (t : Timer) (now : Tick) : Timer := { t with due := t.due || reached now t.value }

def Membership.advance (m : Membership) (now : Tick) : Membership :=
  match m with
  | .outstanding w => .outstanding { w with deadline := w.deadline.advance now }
  | .neither => .neither
  | .blocked => .blocked

/-- Last Grant stays no further than 65536 ticks behind (R144). -/
def keepNear (now lastGrant : Tick) : Tick :=
  if Config.lastGrantReach < (now - lastGrant).toNat then now - BitVec.ofNat 32 Config.lastGrantReach else lastGrant

/-- A window at an advance of the counter to `now`. -/
def Window.advance (w : Window) (now : Tick) : Window :=
  { w with
    lastGrant := keepNear now w.lastGrant
    idle := w.idle.map (·.advance now)
    reservation := w.reservation.map fun r => { r with expiry := r.expiry.advance now }
    context := w.context.map fun c => { c with members := c.members.map (·.advance now) } }

/-- The agent's deadline in this context has passed and has not been taken. -/
def Membership.due : Membership → Bool
  | .outstanding w => w.deadline.due
  | .neither | .blocked => false

/-- A passing of this window has not been taken. -/
def Window.due (w : Window) : Bool :=
  w.idle.any (·.due) || w.reservation.any (·.expiry.due) || w.context.any fun c => c.members.any (·.due)

/-- Every passing has been taken, as it is before the counter advances again (R143). -/
def Directory.allTaken (d : Directory) : Bool := d.slots.all fun s => !s.window.any (·.due)

/-- Every window at an advance of the counter to `now`. -/
def Directory.advance (d : Directory) (now : Tick) : Directory :=
  { d with slots := d.slots.map fun s => { s with window := s.window.map (·.advance now) } }

/-- CLOCK_ADVANCE (R141): the counter advances by 1 modulo 2^32, and tick values pass. -/
def execClockAdvance (s : State) : Host.Outcome State Fault Refusal :=
  .next <|
    if s.directory.allTaken then { s with clock := s.clock + 1, directory := s.directory.advance (s.clock + 1) } else s

end Sys2Proof.Machine
end

