-- ==== Sys2Proof/Machine/Dispatch.lean ====
section
/-! DEFINITION. One arm per command: each is one call of its meaning. -/

namespace Sys2Proof.Machine

def exec (i : Instr) (s : State) : Host.Outcome State Fault Refusal :=
  match i with
  | .requestAccepted k message => Sys2Proof.Machine.execRequestAccepted k message s
  | .fetch => Sys2Proof.Machine.execFetch s
  | .share => Sys2Proof.Machine.execShare s
  | .claim => Sys2Proof.Machine.execClaim s
  | .store => Sys2Proof.Machine.execStore s
  | .release => Sys2Proof.Machine.execRelease s
  | .pin => Sys2Proof.Machine.execPin s
  | .unpin => Sys2Proof.Machine.execUnpin s
  | .withdraw => Sys2Proof.Machine.execWithdraw s
  | .verdictReturned k => Sys2Proof.Machine.execVerdictReturned k s
  | .noticeTaken k => Sys2Proof.Machine.execNoticeTaken k s
  | .recallDeadline slot k => Sys2Proof.Machine.execRecallDeadline slot k s
  | .reservationLapse slot => Sys2Proof.Machine.execReservationLapse slot s
  | .idleDeadline slot => Sys2Proof.Machine.execIdleDeadline slot s
  | .clockAdvance => Sys2Proof.Machine.execClockAdvance s
  | .openWindow => Sys2Proof.Machine.execOpenWindow s
  | .query => Sys2Proof.Machine.execQuery s
  | .queryAddr => Sys2Proof.Machine.execQueryAddr s
  | .revise => Sys2Proof.Machine.execRevise s
  | .retire => Sys2Proof.Machine.execRetire s
  | .watch => Sys2Proof.Machine.execWatch s
  | .abort => Sys2Proof.Machine.execAbort s
  | .agentAdmit => Sys2Proof.Machine.execAgentAdmit s
  | .agentSet => Sys2Proof.Machine.execAgentSet s
  | .agentQuery => Sys2Proof.Machine.execAgentQuery s
  | .agentDetach => Sys2Proof.Machine.execAgentDetach s
  | .agentFence => Sys2Proof.Machine.execAgentFence s
  | .unknownCommand => Sys2Proof.Machine.execUnknownCommand s
  | .completionPop value => Sys2Proof.Machine.execCompletionPop value s
  | .clockResolutionSet resolution => Sys2Proof.Machine.execClockResolutionSet resolution s
  | .directoryReset resolution => Sys2Proof.Machine.execDirectoryReset resolution s
  | .intEnableWrite value => Sys2Proof.Machine.execIntEnableWrite value s
  | .alertStatusClear value => Sys2Proof.Machine.execAlertStatusClear value s
  | .alertAgentsClear value => Sys2Proof.Machine.execAlertAgentsClear value s
  | .registerWrite index value => Sys2Proof.Machine.execRegisterWrite index value s
  | .agentReset k => Sys2Proof.Machine.execAgentReset k s
  | .powerOn => Sys2Proof.Machine.execPowerOn s
  | .badRequest => Sys2Proof.Machine.execBadRequest s

end Sys2Proof.Machine
end

