-- ==== Sys2Proof/Safety.lean ====
section
/-! DEFINITION. The laws the spec says hold in every state: the vocabulary of the invariants. Each is a predicate on the record
that the law is about. -/

namespace Sys2Proof.Safety

open Sys2Proof.Machine

/-! ### Windows -/

/-- "In every window at most one agent holds OWNER, and while one does, every other agent's holding there is NONE" (R70). -/
def SingleOwner (w : Window) : Prop := ∀ j k : Agent, j ≠ k → w.holding j = .owner → w.holding k = .none

/-- "An agent's pin count in a window is above 0 only if its holding there is SHARED or OWNER" (R75). -/
def PinsHeld (w : Window) : Prop := ∀ k : Agent, w.holding k = .none → w.pinCount k = 0

/-- "An agent appears at most once" on a waiter list (R80). -/
def WaitersOnce (w : Window) : Prop := (w.waiters.map (·.agent)).Nodup

/-- A reservation stands only in OPEN, for the head of the list (R88). -/
def ReservationForHead (w : Window) : Prop := ∀ r ∈ w.reservation, w.context = none ∧ w.head = some r.agent

/-- The optional parts follow the causes: a pending revision exactly while REVISION is a cause (R120), a Retire Tag exactly
while RETIRE is (R10), never both causes, and no waiter in RETIRING (R134). -/
def PartsFollowCauses (w : Window) : Prop :=
  w.revision.isSome = w.context.any (·.revision) ∧ w.retireTag.isSome = w.context.any (·.retire) ∧
    (w.revision.isSome = true → w.retireTag = none) ∧ (w.retireTag.isSome = true → w.waiters = [])

/-- A recall context has at least one cause (R94). -/
def CauseStands (w : Window) : Prop := ∀ c ∈ w.context, c.causeless = false

/-- The agent's holding is above its target. -/
def AboveTarget (w : Window) (c : RecallContext) (k : Agent) : Prop :=
  ∃ l ∈ look c.targets k, (w.holding k).above l = true

/-- Outstanding agents hold more than their target with pin count 0, Blocked agents with pin count above 0 (R96); and every
agent above its target is in a set, which the recall waits for (R99, R117). -/
def SetsSound (w : Window) : Prop :=
  ∀ c ∈ w.context, ∀ k : Agent,
    ((look c.members k).isOutstanding = true → AboveTarget w c k ∧ w.pinCount k = 0) ∧
      ((look c.members k).isBlocked = true → AboveTarget w c k ∧ w.pinCount k ≠ 0) ∧
      (AboveTarget w c k → (look c.members k).isMember = true)

/-- In RETIRING every holder is a target at NONE (R135). -/
def RetiringTargetsAll (w : Window) : Prop :=
  ∀ c ∈ w.context, c.retire = true → ∀ k : Agent, (w.holding k).held = true → look c.targets k = some .none

/-- Holdings stay within rights (R71), and a window that is not cacheable records none (R7). -/
def HoldingsAllowed (w : Window) : Prop :=
  ∀ k : Agent, (w.holding k).held = true →
    w.fields.cacheable = true ∧ w.right k ≠ .none ∧ (w.holding k = .owner → w.right k = .write)

/-- The level to which a REVISE to the field set `f` brings agent `k`'s holding down, if it affects it (R122). -/
def affectedTo (w : Window) (f : FieldSet) (k : Agent) : Option Level :=
  if f.agentBase ≠ w.fields.agentBase ∨ f.size ≠ w.fields.size ∨ f.targetBase ≠ w.fields.targetBase ∨
      f.cacheable ≠ w.fields.cacheable then
    if w.holding k = .none then none else some .none
  else
    match look f.rights k, w.holding k with
    | .none, .shared | .none, .owner => some .none
    | .read, .owner => some .shared
    | .read, .shared | .read, .none | .none, .none | .write, _ => none

/-- In REVISING every holding that the pending field set would not allow is a target at or below the level it allows (R122,
R126). -/
def RevisionTargetsAffected (w : Window) : Prop :=
  ∀ c ∈ w.context, c.revision = true → ∀ p ∈ w.revision, ∀ (k : Agent) (l : Level), affectedTo w p.fields k = some l →
    ∃ t, look c.targets k = some t ∧ t.holding.rank ≤ l.holding.rank

/-- The idle deadline is disarmed where Idle Limit is 0 (R145). -/
def IdleNeedsLimit (w : Window) : Prop := w.fields.idleLimit = 0 → w.idle = none

/-! ### The table and the agent records -/

/-- A law of every window. -/
def EveryWindow (law : Window → Prop) (d : Directory) : Prop := ∀ i : SlotId, ∀ w ∈ d.window i, law w

/-- A law of every agent record. -/
def EveryAgent (law : AgentRecord → Prop) (d : Directory) : Prop := ∀ k : Agent, law (d.agent k)

/-- "It holds at most 4 notices, in the order they entered, and at most one notice per window slot" (R34). -/
def NoticesBounded (a : AgentRecord) : Prop :=
  a.notices.length ≤ Config.noticePlaces ∧ (a.notices.map (·.slot)).Nodup

/-- The Revoked Backlog is a set keyed by slot, at most one entry per slot (R39); it is kept lowest slot first. -/
def BacklogKeyed (a : AgentRecord) : Prop := a.backlog.Pairwise fun f g => f.slot < g.slot

/-- The detach in progress is present exactly while the agent is DETACHING (R155). -/
def DetachWhileDetaching (a : AgentRecord) : Prop := a.detach.isSome = true ↔ a.state = .detaching

/-- Queue and backlog are empty and the Holding Count is 0 while the agent is OFFLINE or FENCED (R24). -/
def SilentOutOfService (a : AgentRecord) : Prop :=
  (a.state = .offline ∨ a.state = .fenced) → a.notices = [] ∧ a.backlog = [] ∧ a.holdingCount = 0

/-- The slots in whose windows an agent is a holder. -/
def heldSlots (d : Directory) (k : Agent) : List SlotId :=
  allSlots.filter fun i => (d.window i).any fun w => (w.holding k).held

/-- "The Holding Count of an agent equals the number of windows in which the agent holds SHARED or OWNER" (R32). -/
def CountsHoldings (d : Directory) : Prop := ∀ k : Agent, (d.agent k).holdingCount = (heldSlots d k).length

/-- Only an ONLINE agent is on a waiter list (R24, R55, R157). -/
def WaitersOnline (d : Directory) : Prop := EveryWindow (fun w => ∀ x ∈ w.waiters, (d.agent x.agent).state = .online) d

/-- The ranges of distinct windows, each with its pending revision's range, do not overlap (R14). -/
def RangesApart (d : Directory) : Prop :=
  ∀ i j : SlotId, i ≠ j → ∀ v ∈ d.window i, ∀ w ∈ d.window j,
    v.meets w.fields = false ∧ ∀ p ∈ w.revision, v.meets p.fields = false

/-- Parked List and Completion Queue together hold at most 16 entries (R177). -/
def ResultsBounded (d : Directory) : Prop := d.parked.length + d.completions.length ≤ Config.resultPlaces

/-- The tag that the record a parked command waits on keeps for it (R180). -/
def keptTag (d : Directory) : ParkedWork → Option Tag
  | .revise i => ((d.window i).bind (·.revision)).map (·.tag)
  | .retire i => (d.window i).bind (·.retireTag)
  | .watch i => ((d.window i).bind (·.watch)).map (·.tag)
  | .detach k => (d.agent k).detach.map (·.tag)

/-- Every parked command's record keeps its tag, and no two parked commands share one (R180). -/
def ParkedKept (d : Directory) : Prop :=
  (∀ p ∈ d.parked, keptTag d p.work = some p.tag) ∧ (d.parked.map (·.tag)).Nodup

/-- Every part of a record that keeps a command's tag has its entry on the Parked List (R180). -/
def PartsParked (d : Directory) : Prop :=
  (∀ i, ∀ w ∈ d.window i,
    (∀ p ∈ w.revision, { tag := p.tag, work := .revise i } ∈ d.parked) ∧
      (∀ t ∈ w.retireTag, { tag := t, work := .retire i } ∈ d.parked) ∧
      ∀ x ∈ w.watch, { tag := x.tag, work := .watch i } ∈ d.parked) ∧
    ∀ k, ∀ p ∈ (d.agent k).detach, { tag := p.tag, work := .detach k } ∈ d.parked

/-- The laws of parked commands and their records, which a step keeps together: R10, R120, R155, R177, R180. -/
structure ParkedLaws (d : Directory) : Prop where
  parts : EveryWindow PartsFollowCauses d
  detach : EveryAgent DetachWhileDetaching d
  kept : ParkedKept d
  parked : PartsParked d
  bounded : ResultsBounded d

/-- The laws of holdings, recalls and counts, which a step keeps together: R7, R10, R24, R32, R71, R94, R96, R99, R122, R135,
R145. -/
structure RecallLaws (d : Directory) : Prop where
  parts : EveryWindow PartsFollowCauses d
  causes : EveryWindow CauseStands d
  sets : EveryWindow SetsSound d
  retiring : EveryWindow RetiringTargetsAll d
  revising : EveryWindow RevisionTargetsAffected d
  allowed : EveryWindow HoldingsAllowed d
  idle : EveryWindow IdleNeedsLimit d
  counts : CountsHoldings d
  silent : EveryAgent SilentOutOfService d
  waiters : WaitersOnline d

/-! ### The machine -/

/-- The Command Queue holds at most 4 entries (R176). -/
def CommandsBounded (s : State) : Prop := s.commandQueue.length ≤ Config.commandPlaces

/-! ### How a statement describes a next state -/

/-- The directory with the window record of slot `i` replaced. -/
def withWindow (d : Directory) (i : SlotId) (w : Window) : Directory :=
  { d with slots := put d.slots i { look d.slots i with window := some w } }

/-- The directory with an agent record replaced. -/
def withAgent (d : Directory) (k : Agent) (a : AgentRecord) : Directory := { d with agents := put d.agents k a }

/-- The directory with one more completion record, and without the parked command of this tag (R180). -/
def withEnd (d : Directory) (r : Record) : Directory :=
  { d with completions := d.completions ++ [r], parked := d.parked.filter (·.tag != r.tag) }

/-- Slot `i` FREE, with its generation one higher (R4). -/
def withFreed (d : Directory) (i : SlotId) : Directory :=
  { d with slots := put d.slots i { generation := (look d.slots i).generation + 1, window := none } }

/-- The handle of the window in slot `i` (R2). -/
def slotHandle (d : Directory) (i : SlotId) : Handle := handleOf (look d.slots i).generation i

/-- An idle deadline set from `start` (R145). -/
def idleFrom (limit : BitVec 16) (start : Tick) : Option Timer :=
  if limit = 0 then none else some { value := start + limit.setWidth 32, due := false }

/-- A window after a qualifying grant at `now` that changes nothing else (R66). -/
def touched (w : Window) (now : Tick) : Window := { w with lastGrant := now, idle := idleFrom w.fields.idleLimit now }

/-! ### Codes (R197), as the table of file 11 writes them -/

def holdingNumber : Holding → Nat
  | .none => 0
  | .shared => 1
  | .owner => 2

def verdictNumber : Decision → Nat
  | .grant => 0
  | .pass => 1
  | .retry _ => 2
  | .deny _ => 3

def reasonNumber : Decision → Nat
  | .grant | .pass => 0
  | .retry .recalling => 1
  | .retry .queued => 2
  | .retry .reserved => 3
  | .retry .revising => 4
  | .deny .offline => 5
  | .deny .fenced => 6
  | .deny .detaching => 7
  | .deny .noWindow => 8
  | .deny .crosses => 9
  | .deny .noRight => 10
  | .deny .retiring => 11
  | .deny .notHolder => 12
  | .deny .pinLimit => 13
  | .deny .badRequest => 14

def statusNumber : Status → Nat
  | .done => 1
  | .aborted => 2
  | .superseded => 3
  | .windowGone => 4
  | .agentLost => 5
  | .tableFull => 16
  | .overlap => 17
  | .misaligned => 18
  | .badSize => 19
  | .badField => 20
  | .staleHandle => 21
  | .busy => 22
  | .retiring => 23
  | .tagInUse => 24
  | .notFound => 25
  | .notAbortable => 26
  | .badState => 27
  | .unknownCommand => 28

/-- QUERY never reports FREE, whose code would be 0. -/
def windowStateNumber : WindowState → Nat
  | .free => 0
  | .opened => 1
  | .recalling => 2
  | .revising => 3
  | .retiring => 4

def agentStateNumber : AgentState → Nat
  | .offline => 0
  | .online => 1
  | .detaching => 2
  | .fenced => 3

/-! ### Requests -/

/-- The command that takes a request of this kind (R44). -/
def taking : RequestKind → Instr
  | .access .fetch => .fetch
  | .access .share => .share
  | .access .claim => .claim
  | .access .store => .store
  | .release => .release
  | .pin => .pin
  | .unpin => .unpin
  | .withdraw => .withdraw

/-- The command that takes this request, whatever its kind code (R51). -/
def takingOf (r : Request) : Instr :=
  match RequestKind.ofCode r.kind with
  | some kind => taking kind
  | none => .badRequest

/-- Port `k` holds request `r`, of this kind, and the rotating order takes it next (R45). -/
def TakenNext (s : State) (k : Agent) (r : Request) (kind : RequestKind) : Prop :=
  s.selected = some (k, r) ∧ RequestKind.ofCode r.kind = some kind

/-- The agent is ONLINE or DETACHING, and its requests pass the Agent-state stage (R50). -/
def InService (s : State) (k : Agent) : Prop :=
  (s.directory.agent k).state = .online ∨ (s.directory.agent k).state = .detaching

def Online (s : State) (k : Agent) : Prop := (s.directory.agent k).state = .online

/-- A fall of one of agent `k`'s holdings to level `l` completes no detach: the agent is not DETACHING, or holds on elsewhere
(R161). -/
def DetachGoesOn (s : State) (k : Agent) (l : Level) : Prop :=
  (s.directory.agent k).state = .detaching → l = .none → (s.directory.agent k).holdingCount ≠ 1

/-- Length is 1 to 4096 (R51). -/
def LengthNamed (r : Request) : Prop := 1 ≤ r.length.toNat ∧ r.length.toNat ≤ 4096

/-- The address lies in the window's range (R15). -/
def Within (f : FieldSet) (a : Addr) : Prop :=
  f.agentBase.toNat ≤ a.toNat ∧ a.toNat < f.agentBase.toNat + 2 ^ f.size.toNat

/-- Slot `i` holds window `w`, and it alone is matched by the address (R15). -/
def Matches (d : Directory) (a : Addr) (i : SlotId) (w : Window) : Prop :=
  d.window i = some w ∧ Within w.fields a ∧ ∀ j : SlotId, ∀ v ∈ d.window j, Within v.fields a → j = i

/-- No window is matched by the address (R15). -/
def Unmatched (d : Directory) (a : Addr) : Prop := ∀ j : SlotId, ∀ v ∈ d.window j, ¬ Within v.fields a

/-- The access ends within the window (R53). -/
def EndsWithin (f : FieldSet) (r : Request) : Prop :=
  r.address.toNat + r.length.toNat ≤ f.agentBase.toNat + 2 ^ f.size.toNat

/-- The right covers the kind (R54). -/
def RightCovers : Right → AccessKind → Prop
  | .none, _ => False
  | .read, kind => kind = .fetch ∨ kind = .share
  | .write, _ => True

/-- An access by agent `k` that has passed the stages up to the Right stage, in window `w` of slot `i` (R49). -/
structure Admitted (s : State) (k : Agent) (r : Request) (sent : AccessKind) (i : SlotId) (w : Window) : Prop where
  next : TakenNext s k r (.access sent)
  service : InService s k
  length : LengthNamed r
  found : Matches s.directory r.address i w
  extent : EndsWithin w.fields r
  right : RightCovers (w.right k) sent

/-- A request of another kind that has passed the stages up to the Match stage. -/
structure Found (s : State) (k : Agent) (r : Request) (kind : RequestKind) (i : SlotId) (w : Window) : Prop where
  next : TakenNext s k r kind
  service : InService s k
  found : Matches s.directory r.address i w

/-- No other agent's holding stands in the way of this kind (R73). -/
def NoConflict (w : Window) (k : Agent) : AccessKind → Prop
  | .fetch | .share => ∀ j : Agent, j ≠ k → w.holding j ≠ .owner
  | .claim | .store => ∀ j : Agent, j ≠ k → w.holding j = .none

/-- The grant is no hit of the window's watch (R151). -/
def Unwatched (w : Window) (k : Agent) (kind : AccessKind) : Prop :=
  ∀ x ∈ w.watch, x.agents.getLsbD k.val = false ∨
    (match kind with
      | .fetch | .share => x.reads = false
      | .claim | .store => x.writes = false)

/-- The directory with the window record of slot `i` replaced by `w`, after a grant to agent `k` of this kind, as decided, at address
`a`: a watch that it hits ends, and its WATCH completes DONE with the requester, the kind and the offset (R151, R152). -/
def withGrant (d : Directory) (i : SlotId) (w : Window) (k : Agent) (kind : AccessKind) (a : Addr) : Directory :=
  match w.watch with
  | none => withWindow d i w
  | some x =>
    let named := match kind with
      | .fetch | .share => x.reads
      | .claim | .store => x.writes
    if x.agents.getLsbD k.val = true ∧ named = true then
      withEnd (withWindow d i { w with watch := none })
        { tag := x.tag, kind := 6, status := .done, word1 := (slotHandle d i).setWidth 32
          word2 := BitVec.ofNat 32 (k.val + 256 * kind.code.toNat)
          word3 := (a - w.fields.agentBase).extractLsb' 0 32
          word4 := ((a - w.fields.agentBase).extractLsb' 32 4).setWidth 32
          word5 := 0 }
    else withWindow d i w

/-- The verdict of a request that matched no window, or was decided before the Match stage (R47). -/
def plainVerdict (decision : Decision) (target : Addr) : Verdict :=
  { decision := decision, target := target, holding := .none, uncached := true, adviseRo := false, tag := 0, handle := 0 }

/-- A RETRY or DENY with a matched window (R47). -/
def turnedAway (w : Window) (k : Agent) (decision : Decision) : Verdict :=
  { decision := decision, target := 0, holding := w.holding k, uncached := !w.fields.cacheable, adviseRo := w.fields.adviseRo,
    tag := w.fields.tag, handle := 0 }

/-- A GRANT with the holding it reports (R16, R47). -/
def granted (w : Window) (handle : Handle) (holding : Holding) (a : Addr) : Verdict :=
  { decision := .grant, target := w.fields.targetBase + (a - w.fields.agentBase), holding := holding,
    uncached := !w.fields.cacheable, adviseRo := w.fields.adviseRo, tag := w.fields.tag, handle := handle }

/-- Port `k` holds the verdict, the pointer names it, and the directory is as the decision left it (R43, R45, R46). -/
def answered (s : State) (k : Agent) (v : Verdict) (d : Directory) : State :=
  { s with directory := d, ports := put s.ports k (.answering v), pointer := k }

/-! ### Recalls -/

/-- No RECALL of agent `k` waits for the verdict of its UNPIN any more (R79). -/
def verdictReached (d : Directory) (k : Agent) : Directory :=
  { d with
    slots := d.slots.map fun x =>
      { x with
        window := x.window.map fun w =>
          { w with
            context := w.context.map fun c =>
              { c with
                members := put c.members k
                  (match look c.members k with
                    | .outstanding y => .outstanding { y with awaitsVerdict := false }
                    | .neither => .neither
                    | .blocked => .blocked) } } } }

/-- The notice is the RECALL that agent `k`'s own UNPIN placed, and that UNPIN's verdict has not been returned (R79). -/
def BeforeVerdict (d : Directory) (k : Agent) (n : Notice) : Prop :=
  n.kind ≠ .revoked ∧ ∃ x, d.member n.slot k = .outstanding x ∧ x.awaitsVerdict = true

/-- The agent waits on the recall in the Outstanding set or the Blocked set (R94). -/
def InSet (c : RecallContext) (k : Agent) : Prop := look c.members k ≠ .neither

/-- The wait of an agent that enters the Outstanding set at `now` (R99, R79). -/
def freshWait (a : AgentRecord) (now : Tick) (notice : NoticeStatus) : Wait :=
  { retriesUsed := 0, deadline := { value := now + a.settings.timeout, due := false }, notice := notice, awaitsVerdict := false }

/-- `a'` is agent record `a` after a RECALL for slot `i` at level `l` with these field values has been placed, and `n` is its
Notice Status then: the four rows of R36. -/
def RecallPlaced (a a' : AgentRecord) (i : SlotId) (l : Level) (f : NoticeFields) (n : NoticeStatus) : Prop :=
  ({ a' with notices := a.notices } = a) ∧
    ((∀ m ∈ a.notices, m.slot ≠ i) → a.notices.length < 4 →
      a'.notices = a.notices ++ [{ kind := .recall l, fields := f }] ∧ n = .held) ∧
    ((∀ m ∈ a.notices, m.slot ≠ i) → ¬ a.notices.length < 4 → a' = a ∧ n = .unsent) ∧
    (∀ u v m, a.notices = u ++ m :: v → (∀ x ∈ u, x.slot ≠ i) → (∀ x ∈ v, x.slot ≠ i) → m.slot = i →
      (m.kind = .revoked → a' = a ∧ n = .unsent) ∧
        (m.kind = .recall .none → a' = a ∧ n = .held) ∧
        (m.kind = .recall .shared → n = .held ∧
          a'.notices = if l = .none then u ++ { kind := .recall .none, fields := f } :: v else a.notices))

/-- `a'` is agent record `a` after a REVOKED for slot `i` with these field values has been placed: the four cases of R37. -/
def RevokedPlaced (a a' : AgentRecord) (i : SlotId) (f : NoticeFields) : Prop :=
  ({ a' with notices := a.notices, backlog := a.backlog } = a) ∧
    (∀ u v m, a.notices = u ++ m :: v → (∀ x ∈ u, x.slot ≠ i) → (∀ x ∈ v, x.slot ≠ i) → m.slot = i →
      a'.notices = u ++ { kind := .revoked, fields := f } :: v ∧ a'.backlog = a.backlog) ∧
    ((∀ m ∈ a.notices, m.slot ≠ i) → a.notices.length < 4 →
      a'.notices = a.notices ++ [{ kind := .revoked, fields := f }] ∧ a'.backlog = a.backlog) ∧
    ((∀ m ∈ a.notices, m.slot ≠ i) → ¬ a.notices.length < 4 → BacklogKeyed a →
      a'.notices = a.notices ∧ BacklogKeyed a' ∧ ∀ g, g ∈ a'.backlog ↔ g = f ∨ g ∈ a.backlog ∧ g.slot ≠ i)

/-- The entry of agent `j`, which holds more than its target `l`, into the sets of a recall without force (R99): from `d` to
`d'`, its membership being `m`. -/
def Enters (d d' : Directory) (now : Tick) (i : SlotId) (w : Window) (j : Agent) (l : Level) (m : Membership) : Prop :=
  if w.pinCount j = 0 then
    ∃ n, m = .outstanding (freshWait (d.agent j) now n) ∧
      RecallPlaced (d.agent j) (d'.agent j) i l
        { handle := slotHandle d i, agentBase := w.fields.agentBase, size := w.fields.size } n
  else m = .blocked ∧ d'.agent j = d.agent j

/-- From `d` to `d'`, a recall without force has started in slot `i` and waits: `w` is the window as it stands but for its
reservation, which is dropped, and its context; `opened` is the new context before any target; `targets` names the agents to
lower, each of which holds more than its level (R98, R99). Nothing else changes. -/
def RecallStarted (d d' : Directory) (now : Tick) (i : SlotId) (w : Window) (opened : RecallContext)
    (targets : Agent → Option Level) : Prop :=
  (∃ c : RecallContext, d'.window i = some { w with reservation := none, context := some c } ∧
    { c with targets := opened.targets, members := opened.members } = opened ∧
    ∀ j : Agent, look c.targets j = targets j ∧
      match targets j with
      | none => look c.members j = .neither ∧ d'.agent j = d.agent j
      | some l => Enters d d' now i w j l (look c.members j)) ∧
    (look d'.slots i).generation = (look d.slots i).generation ∧
    (∀ j : SlotId, j ≠ i → look d'.slots j = look d.slots j) ∧
    d'.completions = d.completions ∧ d'.alerts = d.alerts

/-- An agent record after a revocation of a holding above `l` to `l`, before its REVOKED is placed: the Holding Count falls at
NONE, and the Detach Forced count rises while the agent is DETACHING (R109, R160). -/
def revokedRecord (a : AgentRecord) (l : Level) : AgentRecord :=
  { a with
    holdingCount := a.holdingCount - if l = .none then 1 else 0
    detach := if a.state = .detaching then a.detach.map fun p => { p with forced := p.forced + 1 } else a.detach }

/-- The stronger of a present target and a named level: NONE is stronger than SHARED, any level than "not targeted" (R99). -/
def mergedTarget (present named : Option Level) : Option Level :=
  match named, present with
  | none, t => t
  | some .none, _ => some .none
  | some .shared, some .none => some .none
  | some .shared, some .shared | some .shared, none => some .shared

/-- The holding is above the target. -/
def aboveTarget (h : Holding) (t : Option Level) : Bool := t.any fun l => decide (l.holding.rank < h.rank)

/-- Force revokes agent `j`: it is Blocked, or it would be by the level the cause names for it (R99, R101). -/
def revokedByForce (w : Window) (c : RecallContext) (force : Bool) (named : Option Level) (j : Agent) : Bool :=
  force &&
    match look c.members j with
    | .blocked => true
    | .outstanding _ => false
    | .neither => named.isSome && w.pinCount j != 0 && aboveTarget (w.holding j) (mergedTarget (look c.targets j) named)

/-- What a cause that names level `named` for agent `j` does with it, from `d`, `w`, `c` to `d'`, `w'`, `c'` (R99, R100, R101,
R109, R110). `first`: the Blocked set is revoked before the targets are merged. -/
def AgentMerged (d d' : Directory) (now : Tick) (i : SlotId) (w w' : Window) (c c' : RecallContext) (force first : Bool)
    (named : Option Level) (j : Agent) : Prop :=
  let t := mergedTarget (look c.targets j) named
  let f : NoticeFields := { handle := slotHandle d i, agentBase := w.fields.agentBase, size := w.fields.size }
  look c'.targets j = t ∧
    if revokedByForce w c force named j then
      ∃ l b, (if first = true ∧ look c.members j = .blocked then look c.targets j else t) = some l ∧
        w'.holding j = l.holding ∧ w'.pinCount j = 0 ∧ RevokedPlaced (revokedRecord (d.agent j) l) b i f ∧
        if t = some l then look c'.members j = .neither ∧ d'.agent j = b
        else ∃ n, look c'.members j = .outstanding (freshWait (d.agent j) now n) ∧ RecallPlaced b (d'.agent j) i .none f n
    else
      w'.holding j = w.holding j ∧ w'.pinCount j = w.pinCount j ∧
        match look c.members j, t with
        | .blocked, _ => look c'.members j = .blocked ∧ d'.agent j = d.agent j
        | .outstanding x, t =>
          if t = look c.targets j ∨ x.notice = .unsent then
            look c'.members j = .outstanding x ∧ d'.agent j = d.agent j
          else ∃ l n, t = some l ∧ look c'.members j = .outstanding { x with notice := n } ∧
            RecallPlaced (d.agent j) (d'.agent j) i l f n
        | .neither, none => look c'.members j = .neither ∧ d'.agent j = d.agent j
        | .neither, some l =>
          if named.isSome = true ∧ l.holding.rank < (w.holding j).rank then Enters d d' now i w j l (look c'.members j)
          else look c'.members j = .neither ∧ d'.agent j = d.agent j

/-- From `d` to `d'`, a cause that names `named` has entered the context of slot `i` and force has acted, up to the completion
check (R98, R99, R101): `w` is the window but for holdings, pins and context, `c` the context with its cause and force but before
any target; `w'` and `c'` are what they become. Nothing else changes. -/
def CauseMerged (d d' : Directory) (now : Tick) (i : SlotId) (w w' : Window) (c c' : RecallContext) (force first : Bool)
    (named : Agent → Option Level) : Prop :=
  d'.window i = some w' ∧ { w with holdings := w'.holdings, pins := w'.pins, context := some c' } = w' ∧
    { c' with targets := c.targets, members := c.members, forcedCount := c.forcedCount } = c ∧
    c'.forcedCount.toNat =
      min 255 (c.forcedCount.toNat + (allAgents.filter fun j => revokedByForce w c force (named j) j).length) ∧
    (∀ j, AgentMerged d d' now i w w' c c' force first (named j) j) ∧
    (look d'.slots i).generation = (look d.slots i).generation ∧ (∀ j : SlotId, j ≠ i → look d'.slots j = look d.slots j) ∧
    d'.parked = d.parked ∧ d'.completions = d.completions ∧ d'.alerts = d.alerts ∧ d'.choices = d.choices

/-- Force completes no detach in window `w`: each DETACHING agent that pins there holds on elsewhere (R161). -/
def ForceEndsNoDetach (s : State) (w : Window) (force : Bool) : Prop :=
  force = true → ∀ j, w.pinCount j ≠ 0 → DetachGoesOn s j .none

/-- No REVOKED and no Unsent RECALL waits for a place in agent `k`'s queue, other than a RECALL for slot `i` (R40). -/
def NothingWaitsFor (d : Directory) (k : Agent) (i : SlotId) : Prop :=
  (d.agent k).backlog = [] ∧ ∀ j, j ≠ i → d.unsent j k = false

/-- A queue without the RECALL for slot `i` (R38). -/
def withoutRecall (notices : List Notice) (i : SlotId) : List Notice :=
  notices.filter fun n => !(n.slot == i && n.isRecall)

/-- Every queue without its RECALL for slot `i`: the end of a recall whose agents are no longer asked (R38, R118). -/
def withdrawn (d : Directory) (i : SlotId) : Directory :=
  { d with agents := d.agents.map fun a => { a with notices := withoutRecall a.notices i } }

/-- The context has a cause other than DETACH for agent `k` (R116). -/
def OtherCause (c : RecallContext) (k : Agent) : Prop :=
  c.waiter = true ∨ c.idle = true ∨ c.revision = true ∨ c.retire = true ∨ ∃ j, j ≠ k ∧ look c.detachAgents j = true

/-- Agent `k` out of Detach Agents in every context (R162). -/
def withoutDetach (d : Directory) (k : Agent) : Directory :=
  { d with
    slots := d.slots.map fun x =>
      { x with
        window := x.window.map fun w =>
          { w with context := w.context.map fun c => { c with detachAgents := put c.detachAgents k false } } } }

/-- Agent `k`'s RELEASE to `l` answers for the last agent that the recall `c` of slot `i` waits on, and no other agent's queue
holds a RECALL for the slot (R102, R111, R117). -/
structure LastAnswer (s : State) (k : Agent) (r : Request) (i : SlotId) (w : Window) (c : RecallContext) (l : Level) : Prop where
  found : Found s k r .release i w
  goesOn : DetachGoesOn s k l
  level : r.level = l.code
  lowers : l.holding.rank < (w.holding k).rank
  context : w.context = some c
  asked : InSet c k
  meets : ∃ t, look c.targets k = some t ∧ l.holding.rank ≤ t.holding.rank
  last : ∀ j, j ≠ k → ¬ InSet c j
  quiet : NothingWaitsFor s.directory k i
  delivered : ∀ j, j ≠ k → (s.directory.agent j).holdsRecall i = false

/-- The directory after such a RELEASE, by an agent that was in the set `m`, but for slot `i`, whose record becomes `w'`: no RECALL
is left, the Holding Count is lowered at NONE, and an Outstanding agent has one point off its Fault Score (R30, R32, R38, R111,
R112). -/
def afterAnswer (s : State) (k : Agent) (i : SlotId) (m : Membership) (l : Level) (w' : Window) : Directory :=
  let a := s.directory.agent k
  withAgent (withWindow s.directory i w') k
    { a with
      holdingCount := a.holdingCount - if l = .none then 1 else 0
      notices := withoutRecall a.notices i
      faultScore := if m = .blocked then a.faultScore else BitVec.ofNat 8 (a.faultScore.toNat - 1) }

/-- Retirement completes in slot `i`: a watch ends WINDOW_GONE, the slot is FREE, and the RETIRE of tag `t` is DONE (R137). -/
def withRetired (d : Directory) (i : SlotId) (watch : Option Watch) (t : Tag) (handle : Handle) (forced : BitVec 8) : Directory :=
  let d :=
    match watch with
    | none => d
    | some x =>
      withEnd d { tag := x.tag, kind := 6, status := .windowGone, word1 := handle.setWidth 32, word2 := 0, word3 := 0,
                  word4 := 0, word5 := 0 }
  withEnd (withFreed d i)
    { tag := t, kind := 5, status := .done, word1 := handle.setWidth 32, word2 := forced.setWidth 32, word3 := 0, word4 := 0,
      word5 := 0 }

/-- The recall `c` of slot `i`, with empty sets and no RECALL left, completes from `d` to `d'`: the stages of R118, by its causes. -/
def RecallEnded (d d' : Directory) (now : Tick) (i : SlotId) (w : Window) (c : RecallContext) : Prop :=
  if c.retire = true then ∀ t, w.retireTag = some t → d' = withRetired d i w.watch t (slotHandle d i) c.forcedCount
  else if c.revision = true then
    ∀ p, w.revision = some p →
      d' = Directory.headService
        (withEnd
          (withWindow d i { w with fields := p.fields, revision := none, context := none, idle := idleFrom p.fields.idleLimit now })
          { tag := p.tag, kind := 4, status := .done, word1 := (slotHandle d i).setWidth 32
            word2 := c.forcedCount.setWidth 32, word3 := 0, word4 := 0, word5 := 0 }) now i
  else d' = (withWindow d i { w with context := none, idle := idleFrom w.fields.idleLimit now }).headService now i

/-- Cause DETACH for agent `k` reaches slot `i` between `d` and `d'` (R157, step 3; R158): a window where it holds gets a context or
adds the cause to the one it has, and asks the agent for NONE. `force`: the force flag of the AGENT_DETACH, under which its pinned
copy is revoked; under a REVISE's or RETIRE's Force that is so while it is in neither set (R101). A recall left with empty sets
completes. -/
def DetachJoins (d d' : Directory) (now : Tick) (i : SlotId) (k : Agent) (force : Bool) : Prop :=
  match d.window i with
  | none => d' = d
  | some w =>
    if w.holding k = .none then d' = d
    else
      let v := { w with reservation := if w.context = none then none else w.reservation }
      let present := w.context.getD (RecallContext.blank false)
      let c := { present with detachAgents := put present.detachAgents k true }
      let force := force || (c.force && decide (look c.members k = .neither))
      ∃ x w' c',
        x.window i = some w' ∧ AgentMerged d x now i v w' c c' force false (some .none) k ∧
        { v with holdings := put w.holdings k (w'.holding k), pins := put w.pins k (w'.pinCount k), context := some c' } = w' ∧
        { c with
          targets := put c.targets k (look c'.targets k), members := put c.members k (look c'.members k)
          forcedCount := c'.forcedCount } = c' ∧
        c'.forcedCount.toNat = min 255 (c.forcedCount.toNat + if revokedByForce w c force (some .none) k then 1 else 0) ∧
        (∀ j, j ≠ k → x.agent j = d.agent j) ∧ (look x.slots i).generation = (look d.slots i).generation ∧
        (∀ j : SlotId, j ≠ i → look x.slots j = look d.slots j) ∧ x.parked = d.parked ∧ x.completions = d.completions ∧
        x.alerts = d.alerts ∧ x.choices = d.choices ∧
        ((∃ j, InSet c' j) → d' = x) ∧
        ((∀ j, ¬ InSet c' j) → (∀ j, (x.agent j).holdsRecall i = false) → RecallEnded x d' now i w' c')

/-- Cause DETACH has reached every window, in ascending slot order, between `d` and `d'` (R157, step 3). -/
def DetachAsked (d d' : Directory) (now : Tick) (k : Agent) (force : Bool) : Prop :=
  ∃ after : Nat → Directory, after 0 = d ∧ after 128 = d' ∧
    ∀ i : SlotId, DetachJoins (after i.val) (after (i.val + 1)) now i k force

/-- Agent `k` off every waiter list, with the reservation it held there (R84). -/
def withoutWaiter (d : Directory) (k : Agent) : Directory :=
  { d with
    slots := d.slots.map fun x =>
      { x with
        window := x.window.map fun w =>
          if ∃ y ∈ w.waiters, y.agent = k then
            { w with waiters := w.waiters.filter (·.agent != k), reservation := w.reservation.filter (·.agent != k) }
          else w } }

/-- The slots of the OPEN windows whose head is agent `k`. -/
def openHeads (d : Directory) (k : Agent) : List SlotId :=
  allSlots.filter fun i => (d.window i).any fun w => decide (w.context = none ∧ w.head = some k)

/-- Agent `k` has left every waiter list, and head service has run for the next where it was the head of an OPEN window (R84; R157,
step 2). -/
def leftLists (d : Directory) (now : Tick) (k : Agent) : Directory :=
  (openHeads d k).foldl (fun d i => d.headService now i) (withoutWaiter d k)

/-- A context of one cause, before any target (R98, step 2). -/
def waiterAlone : RecallContext := { RecallContext.blank false with waiter := true }

def idleAlone : RecallContext := { RecallContext.blank false with idle := true }

def revisionAlone : RecallContext := { RecallContext.blank false with revision := true }

def retireAlone : RecallContext := { RecallContext.blank false with retire := true }

/-- The targets of a request of this kind (R73). -/
def lowering (w : Window) (k : Agent) (kind : AccessKind) (j : Agent) : Option Level :=
  if j = k then none
  else
    match kind with
    | .fetch | .share => if w.holding j = .owner then some .shared else none
    | .claim | .store => if w.holding j = .none then none else some .none

/-- The deadline of Outstanding agent `k` in slot `i` has passed; its wait is `x`, and it holds more than its target `l`
(R96, R105). -/
structure Passing (s : State) (i : SlotId) (k : Agent) (w : Window) (c : RecallContext) (x : Wait) (l : Level) : Prop where
  window : s.directory.window i = some w
  context : w.context = some c
  member : look c.members k = .outstanding x
  due : x.deadline.due = true
  target : look c.targets k = some l
  above : l.holding.rank < (w.holding k).rank

/-- The Fault Score after a report that adds `n`, held at 255 (R30). -/
def scoreAfter (a : AgentRecord) (n : Nat) : BitVec 8 := BitVec.ofNat 8 (min 255 (a.faultScore.toNat + n))

/-- The fence check after such a report does nothing (R31). -/
def BelowThreshold (a : AgentRecord) (n : Nat) : Prop :=
  a.settings.fenceThreshold = 0 ∨ (scoreAfter a n).toNat < a.settings.fenceThreshold.toNat

/-- The agent holds nothing and pins nothing, and is on no list, in no reservation, in no recall context and in no queue: the end
of agent loss (R164). -/
def StruckEverywhere (d : Directory) (k : Agent) : Prop :=
  (d.agent k).notices = [] ∧ (d.agent k).backlog = [] ∧
    ∀ i, ∀ w ∈ d.window i,
      w.holding k = .none ∧ w.pinCount k = 0 ∧ (∀ x ∈ w.waiters, x.agent ≠ k) ∧ (∀ x ∈ w.reservation, x.agent ≠ k) ∧
        ∀ c ∈ w.context, look c.members k = .neither ∧ look c.targets k = none ∧ look c.detachAgents k = false

/-- The detach in progress `p` of agent `k` has completed between `d` and `d'` with this Detach Forced count: the agent is OFFLINE
with its notices gone and its settings kept, no context holds it in Detach Agents, and the record of its AGENT_DETACH is the last
of the event (R161, R181). -/
def DetachEnded (d d' : Directory) (k : Agent) (p : DetachInProgress) (forced : Nat) : Prop :=
  ((d'.agent k).state = .offline ∧ (d'.agent k).notices = [] ∧ (d'.agent k).backlog = [] ∧ (d'.agent k).detach = none ∧
    (d'.agent k).holdingCount = 0 ∧ (d'.agent k).settings = (d.agent k).settings) ∧
    (∃ others, d'.completions = d.completions ++ others ++
      [{ tag := p.tag, kind := 11, status := .done, word1 := BitVec.ofNat 32 k.val, word2 := BitVec.ofNat 32 forced
         word3 := 0, word4 := 0, word5 := 0 }]) ∧
    (∀ q ∈ d'.parked, q.tag ≠ p.tag) ∧
    ∀ i, ∀ w ∈ d'.window i, ∀ c ∈ w.context, look c.detachAgents k = false

/-- The end of agent loss (R164): the agent's Holding Count is 0 if it counted its holdings, and a detach in progress has ended with
the record AGENT_LOST, after every other record of the loss. -/
def LossRecorded (d d' : Directory) (k : Agent) : Prop :=
  (CountsHoldings d → (d'.agent k).holdingCount = 0) ∧
    (∃ others, d'.completions = d.completions ++ others ++
      ((d.agent k).detach.toList.map fun p =>
        { tag := p.tag, kind := 11, status := .agentLost, word1 := BitVec.ofNat 32 k.val
          word2 := BitVec.ofNat 32 p.forced, word3 := 0, word4 := 0, word5 := 0 })) ∧
    ∀ p ∈ (d.agent k).detach, ∀ q ∈ d'.parked, q.tag ≠ p.tag

/-- The sum of agent `k`'s pin counts over all windows (R29). -/
def pinsOf (d : Directory) (k : Agent) : Nat :=
  (allSlots.map fun i => (d.window i).elim 0 fun w => (w.pinCount k).toNat).sum

/-- Every passing has been taken (R143; log 5). -/
def NothingDue (d : Directory) : Prop :=
  ∀ i, ∀ w ∈ d.window i,
    (∀ x ∈ w.idle, x.due = false) ∧ (∀ x ∈ w.reservation, x.expiry.due = false) ∧
      ∀ c ∈ w.context, ∀ k x, look c.members k = .outstanding x → x.deadline.due = false

/-- A tick value at an advance of the counter to `now`: it passes when (now − T) modulo 2^32 is below 2^31 (R143). -/
def passed (now : Tick) (x : Timer) : Timer :=
  { value := x.value, due := x.due || decide ((now - x.value).toNat < 2147483648) }

/-! ### Commands -/

/-- The row of each command (R175). -/
def commandOf : CommandKind → Instr
  | .openWindow => .openWindow
  | .query => .query
  | .queryAddr => .queryAddr
  | .revise => .revise
  | .retire => .retire
  | .watch => .watch
  | .abort => .abort
  | .agentAdmit => .agentAdmit
  | .agentSet => .agentSet
  | .agentQuery => .agentQuery
  | .agentDetach => .agentDetach
  | .agentFence => .agentFence

/-- The oldest queued entry is `e`, with `rest` behind it, and a place is free for its record (R177). -/
def Oldest (s : State) (e : Entry) (rest : List Entry) : Prop :=
  s.commandQueue = e :: rest ∧ s.directory.parked.length + s.directory.completions.length < 16

/-- The same, with an entry of this kind whose tag no parked command carries: it passes the checks of R178. -/
def Command (s : State) (kind : CommandKind) (e : Entry) (rest : List Entry) : Prop :=
  Oldest s e rest ∧ e.kind = kind.code ∧ ∀ p ∈ s.directory.parked, p.tag ≠ e.tag

/-- The entry has left the queue, and the directory is as the command left it. -/
def taken (s : State) (rest : List Entry) (d : Directory) : State := { s with commandQueue := rest, directory := d }

/-- A record with zero in words 2 to 5. -/
def plainRecord (e : Entry) (status : Status) (word1 : Word) : Record :=
  { tag := e.tag, kind := e.kind, status := status, word1 := word1, word2 := 0, word3 := 0, word4 := 0, word5 := 0 }

/-- The directory with one more completion record. -/
def withRecord (d : Directory) (r : Record) : Directory := { d with completions := d.completions ++ [r] }

/-- The handle that names the window of slot `i` (R3). -/
def Names (d : Directory) (h : BitVec 16) (i : SlotId) (w : Window) : Prop :=
  d.window i = some w ∧ h.toNat = (look d.slots i).generation.toNat * 128 + i.val

/-- The handle check fails (R3). -/
def Stale (d : Directory) (h : BitVec 16) : Prop := ∀ i w, ¬ Names d h i w

/-- Each right code of a supplied field set names a right (R197). -/
def RightsNamed (f : SuppliedFields) : Prop := ∀ k : Agent, (f.rightCode k).toNat ≤ 2

/-- The alignment that check 1 of R13 measures Agent Base against. -/
def alignment (f : SuppliedFields) : Nat := if 12 ≤ f.size.toNat ∧ f.size.toNat ≤ 36 then 2 ^ f.size.toNat else 4096

/-- Check 1 of R13 passes. -/
def Aligned (f : SuppliedFields) : Prop :=
  f.targetBase.toNat % 4096 = 0 ∧ f.agentBase.toNat % alignment f = 0

/-- Check 2 of R13 passes. -/
def SizeNamed (f : SuppliedFields) : Prop := 12 ≤ f.size.toNat ∧ f.size.toNat ≤ 36

/-- Check 3 of R13 passes. -/
def TargetFits (f : SuppliedFields) : Prop := f.targetBase.toNat + 2 ^ f.size.toNat ≤ 2 ^ 40 ∧ RightsNamed f

/-- Every check of R13 passes. -/
def FieldsSound (f : SuppliedFields) : Prop := Aligned f ∧ SizeNamed f ∧ TargetFits f

/-- The first check of R13 that fails, in their order. -/
def FieldsRefused (f : SuppliedFields) (status : Status) : Prop :=
  ¬ Aligned f ∧ status = .misaligned ∨ Aligned f ∧ ¬ SizeNamed f ∧ status = .badSize ∨
    Aligned f ∧ SizeNamed f ∧ ¬ TargetFits f ∧ status = .badField

/-- Two ranges share no agent address (R14). -/
def Apart (f g : FieldSet) : Prop :=
  f.agentBase.toNat + 2 ^ f.size.toNat ≤ g.agentBase.toNat ∨ g.agentBase.toNat + 2 ^ g.size.toNat ≤ f.agentBase.toNat

/-- Neither the window's range nor its pending revision's overlaps the proposed one (R14). -/
def Clear (v : Window) (f : FieldSet) : Prop := Apart v.fields f ∧ ∀ p ∈ v.revision, Apart p.fields f

/-- A REVISE of the window in slot `i` that passes its checks (R121). -/
structure RevisePasses (s : State) (e : Entry) (rest : List Entry) (i : SlotId) (w : Window) : Prop where
  command : Command s .revise e rest
  names : Names s.directory ((look e.params 5).extractLsb' 0 16) i w
  calm : w.state = .opened ∨ w.state = .recalling
  fields : FieldsSound (SuppliedFields.ofParams e.params)
  clear : ∀ j, j ≠ i → ∀ v ∈ s.directory.window j, Clear v (SuppliedFields.ofParams e.params).fieldSet

end Sys2Proof.Safety
end

