-- ==== Sys2Proof/Certificates/Slice0/Obligations.lean ====
section
/-! DEFINITION. The statements for the provers, in the order of OBLIGATIONS.json: the machine and its resets, the management
registers, ports and notices, the check sequence, grants, recalls, tick values, commands, agent loss, and the laws that every
step keeps. -/

open Sys2Proof Sys2Proof.Machine Sys2Proof.Safety

/-! ### The machine -/

/-- A step is the command at the front of the queue, run on the state with the queue's rest; on an empty queue the block idles
(log 2, the model's choice). -/
def Obligations.StepRunsFrontCommand : Prop :=
  (∀ (c : Instr) (rest : List Instr) (s : State),
    step { s with pending := c :: rest } = exec c { s with pending := rest }) ∧
  ∀ s : State, s.pending = [] → step s = .next s

/-- Every command answers a next state: no request, command or tick stops the block (R46, R178). That the events behind it still
wait, at POWER_ON too (log 2, log 23), and that an event whose condition does not hold answers its own state (log 1) are the
model's choices. -/
def Obligations.EveryCommandAnswers : Prop :=
  ∀ (c : Instr) (s : State), ∃ t, exec c s = .next t ∧ t.pending = s.pending

/-- The values right after power-on, and the event POWER_ON, which restores them whatever the state (R20, R41, R69, R141, R188,
R194). The events still waiting and the count of free choices go on (log 14, log 23), and the response lanes are empty (log 8): the
model's choices. -/
def Obligations.ValuesAfterPowerOn : Prop :=
  (∀ i : SlotId, look State.reset.directory.slots i = { generation := 0, window := none }) ∧
  (∀ k : Agent, State.reset.directory.agent k =
    { state := .offline
      settings := { timeoutSelect := 0, retries := 0, fenceThreshold := 0, unmatched := .deny, reservationHold := 1 }
      faultScore := 0, holdingCount := 0, notices := [], backlog := [], detach := none }) ∧
  (∀ k : Agent, look State.reset.ports k = .empty) ∧
  (∀ n : Fin 8, look State.reset.params n = 0) ∧
  State.reset.pointer = 7 ∧ State.reset.clock = 0 ∧ State.reset.resolution = 1 ∧ State.reset.commandQueue = [] ∧
  State.reset.directory.parked = [] ∧ State.reset.directory.completions = [] ∧
  State.reset.directory.alerts.statusWord = 0 ∧ State.reset.directory.alerts.agentsWord = 0 ∧
  State.reset.enables.word = 0 ∧ State.reset.interruptLine = false ∧ State.reset.readRegister .status = 0 ∧
  ∀ s : State, exec .powerOn s =
    .next { State.reset with
      pending := s.pending, directory := { State.reset.directory with choices := s.directory.choices } }

/-- DIRECTORY_RESET: live slots are freed with their generation one higher and FREE slots kept (R21); agent records, queues,
PARAM registers, alerts, clock and pointer take the values of R41, R187, R141 and R69; ports, lanes and enables are unchanged,
and the resolution is the one written (R186). CLOCK_RESOLUTION_SET sets the resolution, and the counter and every tick value keep
their values (R142). That it changes nothing else rests on the model's having no part of a tick elapsed (log 4), and the lanes,
which stay, are the model's (log 8): both the model's choices. -/
def Obligations.ControlWritesResetOrResolution : Prop :=
  (∀ (x : Resolution) (s : State), ∃ d : Directory,
     exec (.directoryReset x) s =
       .next { s with
         directory := d, pointer := 7, clock := 0, resolution := x, params := State.reset.params, commandQueue := [] } ∧
     (∀ i : SlotId,
       look d.slots i =
         if (s.directory.window i).isSome then { generation := (look s.directory.slots i).generation + 1, window := none }
         else look s.directory.slots i) ∧
     d.agents = State.reset.directory.agents ∧ d.parked = [] ∧ d.completions = [] ∧ d.alerts = State.reset.directory.alerts) ∧
  ∀ (x : Resolution) (s : State), ∃ t,
    exec (.clockResolutionSet x) s = .next t ∧ t = { s with resolution := x } ∧
    t.readRegister .control = x.setWidth 32

/-! ### The management registers -/

/-- A write to each register of the window (R172, R174, R175). A write that has a row of its own does what that row does
(log 18). -/
def Obligations.RegisterWriteByOffset : Prop :=
  ∀ (index : BitVec 5) (v : Word) (s : State),
    (∀ n : Fin 8, index.toNat = 8 + n.val →
      exec (.registerWrite index v) s = .next { s with params := put s.params n v }) ∧
    (index = 16 → s.commandQueue.length < 4 →
      exec (.registerWrite index v) s =
        .next { s with
          commandQueue := s.commandQueue ++
            [{ kind := v.extractLsb' 16 4, tag := v.extractLsb' 0 8, params := s.params }] }) ∧
    (index = 16 → ¬ s.commandQueue.length < 4 →
      exec (.registerWrite index v) s =
        .next { s with
          directory := { s.directory with alerts := { s.directory.alerts with commandOverrun := true } } }) ∧
    (index = 2 → exec (.registerWrite index v) s =
      exec (if v.getLsbD 8 then .directoryReset (v.extractLsb' 0 2) else .clockResolutionSet (v.extractLsb' 0 2)) s) ∧
    (index = 3 → exec (.registerWrite index v) s = exec (.intEnableWrite v) s) ∧
    (index = 4 → exec (.registerWrite index v) s = exec (.alertStatusClear v) s) ∧
    (index = 5 → exec (.registerWrite index v) s = exec (.alertAgentsClear v) s) ∧
    (index = 23 → exec (.registerWrite index v) s = exec (.completionPop v) s) ∧
    (index = 0 ∨ index = 1 ∨ index = 6 ∨ index = 7 ∨ (17 ≤ index.toNat ∧ index.toNat ≤ 22) ∨ 24 ≤ index.toNat →
      exec (.registerWrite index v) s = .next s)

/-- "No event of the PF-420 changes a PARAM register except directory reset" (R174): no command but a write to the management
port, DIRECTORY_RESET or POWER_ON changes one. -/
def Obligations.ParamsKeptByEveryOtherEvent : Prop :=
  ∀ (c : Instr) (s t : State), exec c s = .next t →
    (∀ index v, c ≠ .registerWrite index v) → (∀ x, c ≠ .directoryReset x) → c ≠ .powerOn → t.params = s.params

/-- The clearing of alerts, with every other piece of state kept (R191). -/
def Obligations.AlertsClearedByWritesOfOne : Prop :=
  ∀ (v : Word) (s : State),
    exec (.alertStatusClear v) s =
      .next { s with
        directory := { s.directory with
          alerts := { s.directory.alerts with
            forcedRevoke := s.directory.alerts.forcedRevoke && !v.getLsbD 4
            fenced := s.directory.alerts.fenced && !v.getLsbD 5
            agentReset := s.directory.alerts.agentReset && !v.getLsbD 6
            commandOverrun := s.directory.alerts.commandOverrun && !v.getLsbD 7 } } } ∧
    ∃ a : Alerts,
      exec (.alertAgentsClear v) s = .next { s with directory := { s.directory with alerts := a } } ∧
      a.statusWord = s.directory.alerts.statusWord ∧
      ∀ k : Agent,
        a.forcedRevokeAgents.getLsbD k.val = (s.directory.alerts.forcedRevokeAgents.getLsbD k.val && !v.getLsbD k.val) ∧
        a.fencedAgents.getLsbD k.val = (s.directory.alerts.fencedAgents.getLsbD k.val && !v.getLsbD (8 + k.val)) ∧
        a.agentResetAgents.getLsbD k.val = (s.directory.alerts.agentResetAgents.getLsbD k.val && !v.getLsbD (16 + k.val))

/-- The interrupt line is asserted while at least one condition of R193 holds and deasserted while none holds; STATUS reports it;
a write to ALERT_AGENTS leaves it. -/
def Obligations.InterruptLineIsLevel : Prop :=
  ∀ s : State,
    (s.interruptLine = true ↔
      (s.directory.completions ≠ [] ∧ s.enables.completion = true) ∨
      (s.directory.alerts.forcedRevoke = true ∧ s.enables.forcedRevoke = true) ∨
      (s.directory.alerts.fenced = true ∧ s.enables.fenced = true) ∨
      (s.directory.alerts.agentReset = true ∧ s.enables.agentReset = true) ∨
      (s.directory.alerts.commandOverrun = true ∧ s.enables.commandOverrun = true)) ∧
    (s.readRegister .status).getLsbD 0 = s.interruptLine ∧
    ∀ v t, exec (.alertAgentsClear v) s = .next t → t.interruptLine = s.interruptLine

/-- COMPLETION_POP removes the head record and COMPLETION0–5 show the next, or 0 if none remains; on an empty queue the write is
ignored; the value written is ignored (R184). Word 0 holds tag, kind and the status code of R197 at their bits (R195). -/
def Obligations.PopRemovesHeadRecord : Prop :=
  ∀ (v : Word) (s : State),
    (s.directory.completions = [] →
      exec (.completionPop v) s = .next s ∧ ∀ n, s.readRegister (.completion n) = 0) ∧
    ∀ r rest, s.directory.completions = r :: rest →
      exec (.completionPop v) s = .next { s with directory := { s.directory with completions := rest } } ∧
      s.readRegister (.completion 0) =
        BitVec.ofNat 32 (r.tag.toNat + 2 ^ 16 * r.kind.toNat + 2 ^ 24 * statusNumber r.status) ∧
      s.readRegister (.completion 1) = r.word1 ∧ s.readRegister (.completion 2) = r.word2 ∧
      s.readRegister (.completion 3) = r.word3 ∧ s.readRegister (.completion 4) = r.word4 ∧
      s.readRegister (.completion 5) = r.word5

/-- INT_ENABLE_WRITE sets the five enables and nothing else, and a read returns them; "An enable gates the line alone": whatever the
enables, every other command does the same to the rest of the state (R192). -/
def Obligations.EnablesGateLineAlone : Prop :=
  (∀ (v : Word) (s : State), ∃ t,
    exec (.intEnableWrite v) s = .next t ∧
    t = { s with
      enables := { completion := v.getLsbD 0, forcedRevoke := v.getLsbD 4, fenced := v.getLsbD 5, agentReset := v.getLsbD 6,
                   commandOverrun := v.getLsbD 7 } } ∧
    t.readRegister .intEnable = v &&& 0xF1#32) ∧
  ∀ (c : Instr) (s t : State) (e : Enables),
    (∀ v, c ≠ .intEnableWrite v) → (∀ v, c ≠ .registerWrite 3 v) → c ≠ .powerOn →
    exec c s = .next t → exec c { s with enables := e } = .next { t with enables := e }

/-! ### Ports and notices -/

/-- REQUEST_ACCEPTED: an EMPTY port holds the request with the fields at the bits of R196, and in another state the message is
not accepted (R43). -/
def Obligations.RequestFillsEmptyPort : Prop :=
  ∀ (k : Agent) (m : BitVec 64) (s : State),
    exec (.requestAccepted k m) s =
      .next (if look s.ports k = .empty then
        { s with
          ports := put s.ports k (.waiting
            { address := m.extractLsb' 0 40, kind := m.extractLsb' 40 4, level := m.extractLsb' 44 2
              length := m.extractLsb' 48 13 }) }
      else s)

/-- VERDICT_RETURNED: the port is EMPTY and its verdict is on the agent's response lane (R43; the lane is the model's, log 8), with
its fields at the bits of R196 in the codes of R197 and every reserved bit 0. A RECALL that waited for the verdict of the agent's UNPIN
waits no longer (R79; the mark is the model's, log 29). -/
def Obligations.VerdictReturnEmptiesPort : Prop :=
  ∀ (k : Agent) (v : Verdict) (s : State), look s.ports k = .answering v →
    exec (.verdictReturned k) s =
      .next { s with
        directory := verdictReached s.directory k
        ports := put s.ports k .empty, lanes := put s.lanes k { look s.lanes k with verdict := some v.message } } ∧
    v.message.extractLsb' 0 40 = v.target ∧ (v.message.extractLsb' 40 2).toNat = verdictNumber v.decision ∧
    (v.message.extractLsb' 44 4).toNat = reasonNumber v.decision ∧
    (v.message.extractLsb' 48 2).toNat = holdingNumber v.holding ∧
    v.message.getLsbD 50 = v.uncached ∧ v.message.getLsbD 51 = v.adviseRo ∧ v.message.extractLsb' 52 2 = v.tag ∧
    v.message.extractLsb' 64 15 = v.handle ∧
    v.message.extractLsb' 42 2 = 0 ∧ v.message.extractLsb' 54 10 = 0 ∧ v.message.extractLsb' 79 17 = 0

/-- The notice message holds its fields at the bits of R196, with level 0 for a REVOKED and every reserved bit 0. NOTICE_TAKEN
where nothing waits for the freed place: the oldest notice leaves the queue and reaches the agent, a RECALL of an Outstanding agent
is marked Noticed-taken, and nothing else changes (R35, R40; the lane is the model's, log 8). A notice is taken in every port state
(R43) but for the RECALL that the agent's own UNPIN placed: before that UNPIN's verdict has been returned it is not taken (R79; the
reading of the two rules is the model's, log 29). -/
def Obligations.NoticeTakenMarksRecall : Prop :=
  (∀ n : Notice,
    n.message.extractLsb' 0 40 = n.fields.agentBase ∧ n.message.getLsbD 40 = decide (n.kind = .revoked) ∧
    (n.message.extractLsb' 41 2).toNat = (if n.kind = .recall .shared then 1 else 0) ∧
    n.message.extractLsb' 43 5 = 0 ∧ n.message.extractLsb' 48 6 = n.fields.size ∧ n.message.extractLsb' 54 10 = 0 ∧
    n.message.extractLsb' 64 15 = n.fields.handle ∧ n.message.extractLsb' 79 17 = 0) ∧
  ∀ (k : Agent) (s : State) (n : Notice) (rest : List Notice),
    (s.directory.agent k).notices = n :: rest →
    (BeforeVerdict s.directory k n → exec (.noticeTaken k) s = .next s) ∧
    ((s.directory.agent k).backlog = [] →
    (∀ i, ∀ x, s.directory.member i k = .outstanding x → x.notice ≠ .unsent) →
    let lanes := put s.lanes k { look s.lanes k with notice := some n.message }
    let d := withAgent s.directory k { s.directory.agent k with notices := rest }
    (n.kind = .revoked ∨ (∀ x, s.directory.member n.slot k ≠ .outstanding x) →
      exec (.noticeTaken k) s = .next { s with lanes := lanes, directory := d }) ∧
    ∀ l w c x, n.kind = .recall l → s.directory.window n.slot = some w → w.context = some c →
      look c.members k = .outstanding x → x.awaitsVerdict = false →
      exec (.noticeTaken k) s =
        .next { s with
          lanes := lanes
          directory := withWindow d n.slot
            { w with context := some { c with members := put c.members k (.outstanding { x with notice := .taken }) } } })

/-- A freed place is filled from the Revoked Backlog first, lowest slot first, and then from the Unsent RECALLs, lowest slot first,
with the field values the window has now (R40). -/
def Obligations.FreedPlaceIsFilled : Prop :=
  ∀ (k : Agent) (s : State) (n : Notice) (rest : List Notice),
    (s.directory.agent k).notices = n :: rest → rest.length < 4 → ¬ BeforeVerdict s.directory k n →
    ∃ t, exec (.noticeTaken k) s = .next t ∧
      (∀ f, f ∈ (s.directory.agent k).backlog → BacklogKeyed (s.directory.agent k) →
        (∀ m ∈ rest, m.slot ≠ f.slot) →
        (∀ g ∈ (s.directory.agent k).backlog, g.slot < f.slot → ∃ m ∈ rest, m.slot = g.slot) →
        (t.directory.agent k).notices = rest ++ [{ kind := .revoked, fields := f }] ∧
        ∀ g, g ∈ (t.directory.agent k).backlog ↔ g ∈ (s.directory.agent k).backlog ∧ g ≠ f) ∧
      (∀ i w c x l, (s.directory.agent k).backlog = [] → s.directory.window i = some w → w.context = some c →
        look c.members k = .outstanding x → x.notice = .unsent → look c.targets k = some l →
        (n.slot = i → n.kind = .revoked) → (∀ m ∈ rest, m.slot ≠ i) →
        (∀ j, j < i → s.directory.unsent j k = true →
          (n.slot = j ∧ n.kind ≠ .revoked) ∨ ∃ m ∈ rest, m.slot = j) →
        (t.directory.agent k).notices = rest ++
          [{ kind := .recall l
             fields := { handle := slotHandle s.directory i, agentBase := w.fields.agentBase, size := w.fields.size } }] ∧
        t.directory.member i k = .outstanding { x with notice := .held })

/-! ### The Decision Unit -/

/-- The rotating order: the port taken is the WAITING one found first by counting upward from the port after the pointer, and no
port is taken exactly when none waits (R45). -/
def Obligations.RotatingOrderChoosesPort : Prop :=
  ∀ s : State,
    (∀ k r, s.selected = some (k, r) ↔
      look s.ports k = .waiting r ∧
      ∀ j x, look s.ports j = .waiting x → (k - (s.pointer + 1)).val ≤ (j - (s.pointer + 1)).val) ∧
    (s.selected = none ↔ ∀ j x, look s.ports j ≠ .waiting x)

/-- The tables of the downgrade (R56), the classes (R72) and the rights (R54), the codes of request kinds, levels and commands
(R197), and the recall timeouts (R26). -/
def Obligations.AccessTables : Prop :=
  (∀ kind : AccessKind, kind.decided true = kind) ∧
  AccessKind.decided .share false = .fetch ∧ AccessKind.decided .claim false = .store ∧
  AccessKind.decided .fetch false = .fetch ∧ AccessKind.decided .store false = .store ∧
  (∀ kind : AccessKind, kind.class .owner = .holderAccess) ∧
  AccessKind.class .fetch .none = .neither ∧ AccessKind.class .fetch .shared = .holderAccess ∧
  AccessKind.class .share .none = .adds ∧ AccessKind.class .share .shared = .holderAccess ∧
  AccessKind.class .claim .none = .adds ∧ AccessKind.class .claim .shared = .raises ∧
  AccessKind.class .store .none = .neither ∧ AccessKind.class .store .shared = .neither ∧
  (∀ (x : Right) (kind : AccessKind), x.allows kind = true ↔ RightCovers x kind) ∧
  RequestKind.ofCode 0 = some (.access .fetch) ∧ RequestKind.ofCode 1 = some (.access .share) ∧
  RequestKind.ofCode 2 = some (.access .claim) ∧ RequestKind.ofCode 3 = some (.access .store) ∧
  RequestKind.ofCode 4 = some .release ∧ RequestKind.ofCode 5 = some .pin ∧ RequestKind.ofCode 6 = some .unpin ∧
  RequestKind.ofCode 7 = some .withdraw ∧ (∀ c : BitVec 4, 8 ≤ c.toNat → RequestKind.ofCode c = none) ∧
  Level.none.code = 0 ∧ Level.shared.code = 1 ∧
  CommandKind.openWindow.code = 1 ∧ CommandKind.query.code = 2 ∧ CommandKind.queryAddr.code = 3 ∧
  CommandKind.revise.code = 4 ∧ CommandKind.retire.code = 5 ∧ CommandKind.watch.code = 6 ∧ CommandKind.abort.code = 7 ∧
  CommandKind.agentAdmit.code = 8 ∧ CommandKind.agentSet.code = 9 ∧ CommandKind.agentQuery.code = 10 ∧
  CommandKind.agentDetach.code = 11 ∧ CommandKind.agentFence.code = 12 ∧
  ∀ x : Settings, x.timeout =
    if x.timeoutSelect = 0 then 16 else if x.timeoutSelect = 1 then 128 else if x.timeoutSelect = 2 then 1024 else 8192

/-- The Agent-state stage: an OFFLINE or FENCED agent is denied for every request, whatever its form or address, and the requests
of other agents pass it (R50). -/
def Obligations.AgentStateStage : Prop :=
  ∀ (s : State) (k : Agent) (r : Request), s.selected = some (k, r) →
    ((s.directory.agent k).state = .offline →
      exec (takingOf r) s = .next (answered s k (plainVerdict (.deny .offline) 0) s.directory)) ∧
    ((s.directory.agent k).state = .fenced →
      exec (takingOf r) s = .next (answered s k (plainVerdict (.deny .fenced) 0) s.directory)) ∧
    (InService s k → ∃ v d, exec (takingOf r) s = .next (answered s k v d) ∧
      v.decision ≠ .deny .offline ∧ v.decision ≠ .deny .fenced)

/-- The Form stage: a kind code that names no kind, a Length outside 1–4096 of a kind that uses it, and a RELEASE Level that is
neither SHARED nor NONE give DENY BAD_REQUEST; every other request passes (R51). -/
def Obligations.FormStage : Prop :=
  ∀ (s : State) (k : Agent) (r : Request), s.selected = some (k, r) → InService s k →
    (RequestKind.ofCode r.kind = none →
      exec .badRequest s = .next (answered s k (plainVerdict (.deny .badRequest) 0) s.directory)) ∧
    (∀ kind, RequestKind.ofCode r.kind = some (.access kind) → ¬ LengthNamed r →
      exec (taking (.access kind)) s = .next (answered s k (plainVerdict (.deny .badRequest) 0) s.directory)) ∧
    (RequestKind.ofCode r.kind = some .release → r.level ≠ 0 → r.level ≠ 1 →
      exec .release s = .next (answered s k (plainVerdict (.deny .badRequest) 0) s.directory)) ∧
    (∀ kind, RequestKind.ofCode r.kind = some kind → (∀ x, kind = .access x → LengthNamed r) →
      (kind = .release → r.level = 0 ∨ r.level = 1) →
      ∃ v d, exec (taking kind) s = .next (answered s k v d) ∧ v.decision ≠ .deny .badRequest)

/-- The Match stage for an address that no window matches: PASS with the address unchanged or DENY NO_WINDOW, by the kind and the
Unmatched Policy, and no record changes (R52). -/
def Obligations.MatchStageWithoutWindow : Prop :=
  ∀ (s : State) (k : Agent) (r : Request) (kind : RequestKind), TakenNext s k r kind → InService s k →
    Unmatched s.directory r.address →
    (∀ x, kind = .access x → LengthNamed r) → (kind = .release → r.level = 0 ∨ r.level = 1) →
    exec (taking kind) s =
      .next (answered s k
        (match kind, (s.directory.agent k).settings.unmatched with
          | .access _, .pass => plainVerdict .pass r.address
          | .access _, .deny => plainVerdict (.deny .noWindow) 0
          | .release, _ | .pin, _ | .unpin, _ | .withdraw, _ => plainVerdict (.deny .noWindow) 0) s.directory)

/-- The Extent stage: an access passes if Address + Length ≤ Agent Base + 2^Size, and is denied CROSSES otherwise (R53). -/
def Obligations.ExtentStage : Prop :=
  ∀ (s : State) (k : Agent) (r : Request) (kind : AccessKind) (i : SlotId) (w : Window),
    TakenNext s k r (.access kind) → InService s k → LengthNamed r → Matches s.directory r.address i w →
    (r.address.toNat + r.length.toNat ≤ w.fields.agentBase.toNat + 2 ^ w.fields.size.toNat →
      ∃ v d, exec (taking (.access kind)) s = .next (answered s k v d) ∧ v.decision ≠ .deny .crosses) ∧
    (¬ r.address.toNat + r.length.toNat ≤ w.fields.agentBase.toNat + 2 ^ w.fields.size.toNat →
      exec (taking (.access kind)) s = .next (answered s k (turnedAway w k (.deny .crosses)) s.directory))

/-- The Right stage: an access that Rights[k] does not cover is denied NO_RIGHT, and every other request passes (R54). -/
def Obligations.RightStage : Prop :=
  ∀ (s : State) (k : Agent) (r : Request) (kind : RequestKind) (i : SlotId) (w : Window),
    TakenNext s k r kind → InService s k → Matches s.directory r.address i w →
    (∀ x, kind = .access x → LengthNamed r → EndsWithin w.fields r → ¬ RightCovers (w.right k) x →
      exec (taking kind) s = .next (answered s k (turnedAway w k (.deny .noRight)) s.directory)) ∧
    ((∀ x, kind = .access x → RightCovers (w.right k) x) →
      ∃ v d, exec (taking kind) s = .next (answered s k v d) ∧ v.decision ≠ .deny .noRight)

/-- A DETACHING agent's adding or raising request and its PIN are denied DETACHING, and so is a request that would make it wait or
start a recall; no record changes (R55). -/
def Obligations.DetachingAgentIsLimited : Prop :=
  ∀ (s : State) (k : Agent) (r : Request) (i : SlotId) (w : Window), (s.directory.agent k).state = .detaching →
    (∀ sent, Admitted s k r sent i w →
      ((sent.decided w.fields.cacheable).class (w.holding k)).grows = true ∨
        ((sent.decided w.fields.cacheable).class (w.holding k) = .neither ∧
          ¬ NoConflict w k (sent.decided w.fields.cacheable) ∧
          (w.state = .opened ∨ w.state = .recalling ∧ w.head ≠ some k)) →
      exec (taking (.access sent)) s = .next (answered s k (turnedAway w k (.deny .detaching)) s.directory)) ∧
    (Found s k r .pin i w → exec .pin s = .next (answered s k (turnedAway w k (.deny .detaching)) s.directory))

/-- In REVISING an access that is no holder access and a PIN are told RETRY REVISING; in RETIRING they and a WITHDRAW are denied
RETIRING; no record changes (R61, R62; R76 for PIN, R110 is read to agree: log 28, the model's choice). A DETACHING agent's FETCH,
STORE and WITHDRAW are told the same; its adding and raising requests and its PIN are turned away before (R55). -/
def Obligations.RevisingAndRetiringTurnAway : Prop :=
  ∀ (s : State) (k : Agent) (r : Request) (i : SlotId) (w : Window),
    (∀ sent, Admitted s k r sent i w → (sent.decided w.fields.cacheable).class (w.holding k) ≠ .holderAccess →
      (Online s k ∨ (sent.decided w.fields.cacheable).class (w.holding k) = .neither) →
      (w.state = .revising →
        exec (taking (.access sent)) s = .next (answered s k (turnedAway w k (.retry .revising)) s.directory)) ∧
      (w.state = .retiring →
        exec (taking (.access sent)) s = .next (answered s k (turnedAway w k (.deny .retiring)) s.directory))) ∧
    (Found s k r .pin i w → Online s k →
      (w.state = .revising → exec .pin s = .next (answered s k (turnedAway w k (.retry .revising)) s.directory)) ∧
      (w.state = .retiring → exec .pin s = .next (answered s k (turnedAway w k (.deny .retiring)) s.directory))) ∧
    (Found s k r .withdraw i w → w.state = .retiring →
      exec .withdraw s = .next (answered s k (turnedAway w k (.deny .retiring)) s.directory))

/-! ### Grants -/

/-- A holder access in every state (R57), and a FETCH or STORE that meets no conflict where it is not the head's (R58 to R60, R63):
GRANT, the holding unchanged, Last Grant now and the idle deadline moved with it (R66, R145), and nothing else changes, but where
the window's watch is hit: there the watch ends too, and its WATCH completes DONE with the requester, the kind as decided and the
offset (R151, R152). -/
def Obligations.AccessKeepsHolding : Prop :=
  (∀ (s : State) (k : Agent) (r : Request) (sent : AccessKind) (i : SlotId) (w : Window), Admitted s k r sent i w →
     Unwatched w k (sent.decided w.fields.cacheable) →
     ((sent.decided w.fields.cacheable).class (w.holding k) = .holderAccess ∨
       ((sent.decided w.fields.cacheable).class (w.holding k) = .neither ∧ NoConflict w k (sent.decided w.fields.cacheable) ∧
         (w.state = .opened ∨ w.state = .recalling) ∧ w.head ≠ some k)) →
     exec (taking (.access sent)) s =
       .next (answered s k (granted w (slotHandle s.directory i) (w.holding k) r.address)
         (withWindow s.directory i (touched w s.clock)))) ∧
  ∀ (s : State) (k : Agent) (r : Request) (sent : AccessKind) (i : SlotId) (w : Window) (x : Watch),
    Admitted s k r sent i w → w.watch = some x → ¬ Unwatched w k (sent.decided w.fields.cacheable) →
    ((sent.decided w.fields.cacheable).class (w.holding k) = .holderAccess ∨
      ((sent.decided w.fields.cacheable).class (w.holding k) = .neither ∧ NoConflict w k (sent.decided w.fields.cacheable) ∧
        (w.state = .opened ∨ w.state = .recalling) ∧ w.head ≠ some k)) →
    exec (taking (.access sent)) s =
      .next (answered s k (granted w (slotHandle s.directory i) (w.holding k) r.address)
        (withEnd (withWindow s.directory i { touched w s.clock with watch := none })
          { tag := x.tag, kind := 6, status := .done
            word1 := (slotHandle s.directory i).setWidth 32
            word2 := BitVec.ofNat 32 (k.val + 256 * (sent.decided w.fields.cacheable).code.toNat)
            word3 := (r.address - w.fields.agentBase).extractLsb' 0 32
            word4 := ((r.address - w.fields.agentBase).extractLsb' 32 4).setWidth 32
            word5 := 0 }))

/-- A SHARE that adds and a CLAIM that adds or raises, in OPEN with no waiter, no reservation and no conflict: the holding and the
Holding Count change as R64 states, and Last Grant is now (R58, R66). A watch that the grant hits ends, and its WATCH completes DONE
(R151, R152). -/
def Obligations.ShareAndClaimRaiseHolding : Prop :=
  ∀ (s : State) (k : Agent) (r : Request) (sent : AccessKind) (i : SlotId) (w : Window), Admitted s k r sent i w →
    Online s k → w.fields.cacheable = true → w.context = none → w.waiters = [] → w.reservation = none →
    NoConflict w k sent →
    (sent = .share → w.holding k = .none →
      exec .share s =
        .next (answered s k (granted w (slotHandle s.directory i) .shared r.address)
          (withAgent
            (withGrant s.directory i { touched w s.clock with holdings := put w.holdings k .shared } k .share r.address) k
            { s.directory.agent k with holdingCount := (s.directory.agent k).holdingCount + 1 }))) ∧
    (sent = .claim → w.holding k ≠ .owner →
      exec .claim s =
        .next (answered s k (granted w (slotHandle s.directory i) .owner r.address)
          (withAgent
            (withGrant s.directory i { touched w s.clock with holdings := put w.holdings k .owner } k .claim r.address) k
            { s.directory.agent k with
              holdingCount := (s.directory.agent k).holdingCount + if w.holding k = .none then 1 else 0 })))

/-- The head's granted request in OPEN: its holding is set, its reservation ends, it leaves the list, and head service runs for the
next entry; with none left, nothing else changes (R59, R67, R90). A watch that the grant hits ends, and its WATCH completes DONE (R151,
R152). -/
def Obligations.HeadIsServed : Prop :=
  ∀ (s : State) (k : Agent) (r : Request) (sent : AccessKind) (i : SlotId) (w : Window) (x : Waiter) (rest : List Waiter),
    Admitted s k r sent i w → Online s k → w.context = none → w.waiters = x :: rest → x.agent = k →
    (∀ y ∈ rest, y.agent ≠ k) →
    (sent.decided w.fields.cacheable).class (w.holding k) ≠ .holderAccess →
    NoConflict w k (sent.decided w.fields.cacheable) →
    let held := (sent.decided w.fields.cacheable).holdingAfter (w.holding k)
    let d := withAgent
      (withGrant s.directory i
        { touched w s.clock with holdings := put w.holdings k held, waiters := rest, reservation := none } k
        (sent.decided w.fields.cacheable) r.address) k
      { s.directory.agent k with holdingCount := countAfter (s.directory.agent k).holdingCount (w.holding k) held }
    exec (taking (.access sent)) s =
      .next (answered s k (granted w (slotHandle s.directory i) held r.address) (d.headService s.clock i)) ∧
    (rest = [] → d.headService s.clock i = d)

/-- Head service (R86, R87): nothing where the window has a context or a reservation or no waiter is left; entries whose right is
lost leave; without a conflict the head gets a reservation until now plus its Reservation Hold (R88); with one a recall with cause
WAITER starts (R74). -/
def Obligations.HeadServiceServesFirstEntitled : Prop :=
  ∀ (d : Directory) (now : Tick) (i : SlotId) (w : Window), d.window i = some w →
    (w.context ≠ none ∨ w.reservation ≠ none → d.headService now i = d) ∧
    (w.context = none → w.reservation = none →
      ((∀ y ∈ w.waiters, ¬ RightCovers (w.right y.agent) y.wanted) →
        d.headService now i = withWindow d i { w with waiters := [] }) ∧
      ∀ lost x rest, w.waiters = lost ++ x :: rest → (∀ y ∈ lost, ¬ RightCovers (w.right y.agent) y.wanted) →
        RightCovers (w.right x.agent) x.wanted →
        (NoConflict w x.agent (x.wanted.decided w.fields.cacheable) →
          d.headService now i = withWindow d i
            { w with
              waiters := x :: rest
              reservation := some
                { agent := x.agent
                  expiry := { value := now + (d.agent x.agent).settings.reservationHold.setWidth 32, due := false } } }) ∧
        (¬ NoConflict w x.agent (x.wanted.decided w.fields.cacheable) →
          RecallStarted d (d.headService now i) now i { w with waiters := x :: rest } waiterAlone
            (lowering w x.agent (x.wanted.decided w.fields.cacheable)) ∧
          (d.headService now i).parked = d.parked))

/-- A request that conflicts in OPEN, from the first to wait or from the head: RETRY RECALLING, the requester is the head with its
kind as decided, and a recall starts whose targets are the conflict test's, each agent asked or, if pinned, Blocked (R58, R59, R73,
R74, R99). -/
def Obligations.ConflictStartsRecall : Prop :=
  ∀ (s : State) (k : Agent) (r : Request) (sent : AccessKind) (i : SlotId) (w : Window) (rest : List Waiter),
    Admitted s k r sent i w → Online s k → w.context = none →
    (w.waiters = [] ∧ w.reservation = none ∧ rest = [] ∨
      ∃ x, w.waiters = x :: rest ∧ x.agent = k ∧ ∀ y ∈ rest, y.agent ≠ k) →
    (sent.decided w.fields.cacheable).class (w.holding k) ≠ .holderAccess →
    ¬ NoConflict w k (sent.decided w.fields.cacheable) →
    ∃ d, exec (taking (.access sent)) s = .next (answered s k (turnedAway w k (.retry .recalling)) d) ∧
      d.parked = s.directory.parked ∧
      RecallStarted s.directory d s.clock i
        { w with waiters := { agent := k, wanted := sent.decided w.fields.cacheable } :: rest } waiterAlone
        (lowering w k (sent.decided w.fields.cacheable))

/-- A request that adds, raises or conflicts and is not the head's joins the waiter list, RETRY RESERVED in OPEN with waiters or a
reservation and RETRY QUEUED in RECALLING; the head in RECALLING is told RETRY RECALLING and nothing changes (R59, R60, R81). -/
def Obligations.RequestJoinsWaiterList : Prop :=
  ∀ (s : State) (k : Agent) (r : Request) (sent : AccessKind) (i : SlotId) (w : Window), Admitted s k r sent i w →
    Online s k → (sent.decided w.fields.cacheable).class (w.holding k) ≠ .holderAccess →
    ((((sent.decided w.fields.cacheable).class (w.holding k)).grows = true ∨
        ¬ NoConflict w k (sent.decided w.fields.cacheable)) → w.head ≠ some k →
      ∀ reason, (w.state = .opened ∧ (w.waiters ≠ [] ∨ w.reservation ≠ none) ∧ reason = .reserved ∨
          w.state = .recalling ∧ reason = .queued) →
      exec (taking (.access sent)) s =
        .next (answered s k (turnedAway w k (.retry reason))
          (withWindow s.directory i
            { w with
              waiters :=
                if (∃ x ∈ w.waiters, x.agent = k) then
                  w.waiters.map fun x => if x.agent = k then { agent := k, wanted := sent.decided w.fields.cacheable } else x
                else w.waiters ++ [{ agent := k, wanted := sent.decided w.fields.cacheable }] }))) ∧
    (w.head = some k → w.state = .recalling →
      exec (taking (.access sent)) s = .next (answered s k (turnedAway w k (.retry .recalling)) s.directory))

/-! ### RELEASE, PIN, UNPIN, WITHDRAW -/

/-- A RELEASE whose Level is at or above the holding changes nothing; one that lowers it, from an agent that no recall then finds
satisfied and whose detach does not end with it, sets the holding, clears the pins at NONE and lowers the Holding Count; the
verdict is GRANT with the holding that results (R65, R111, R112, R113). -/
def Obligations.ReleaseLowersHolding : Prop :=
  ∀ (s : State) (k : Agent) (r : Request) (i : SlotId) (w : Window) (l : Level), Found s k r .release i w →
    r.level = l.code →
    (l.holding.rank ≥ (w.holding k).rank →
      exec .release s = .next (answered s k (granted w (slotHandle s.directory i) (w.holding k) r.address) s.directory)) ∧
    (l.holding.rank < (w.holding k).rank → DetachGoesOn s k l →
      (∀ c ∈ w.context, InSet c k → ∃ t, look c.targets k = some t ∧ t.holding.rank < l.holding.rank) →
      exec .release s =
        .next (answered s k (granted w (slotHandle s.directory i) l.holding r.address)
          (withAgent
            (withWindow s.directory i
              { w with
                holdings := put w.holdings k l.holding
                pins := if l = .none then put w.pins k 0 else w.pins }) k
            { s.directory.agent k with
              holdingCount := (s.directory.agent k).holdingCount - if l = .none then 1 else 0 })))

/-- A RELEASE that satisfies the target of an agent in a set while other agents are still waited for: the agent leaves its set, an
Outstanding one with its queued RECALL withdrawn and its Fault Score one lower, a Blocked one without a score (R30, R38, R111,
R112). -/
def Obligations.ReleaseAnswersRecall : Prop :=
  ∀ (s : State) (k j : Agent) (r : Request) (i : SlotId) (w : Window) (c : RecallContext) (l t : Level),
    Found s k r .release i w → DetachGoesOn s k l → r.level = l.code → l.holding.rank < (w.holding k).rank →
    w.context = some c → InSet c k → look c.targets k = some t → l.holding.rank ≤ t.holding.rank →
    j ≠ k → InSet c j → NothingWaitsFor s.directory k i →
    exec .release s =
      .next (answered s k (granted w (slotHandle s.directory i) l.holding r.address)
        (withAgent
          (withWindow s.directory i
            { w with
              holdings := put w.holdings k l.holding
              pins := if l = .none then put w.pins k 0 else w.pins
              context := some { c with members := put c.members k .neither } }) k
          (let a := { s.directory.agent k with
              holdingCount := (s.directory.agent k).holdingCount - if l = .none then 1 else 0 }
           match look c.members k with
           | .blocked => a
           | .outstanding _ | .neither =>
             { a with
               notices := withoutRecall a.notices i
               faultScore := BitVec.ofNat 8 (a.faultScore.toNat - 1) })))

/-- The RELEASE that answers for the last agent a recall waits on completes it; a Blocked agent answers as an Outstanding one does, but
without a score (R111, R112, R117, R118). Where neither REVISION nor RETIRE is a
cause, the context is removed, the window is OPEN, the idle deadline is armed from now, and head service runs. Where REVISION is,
the pending revision replaces the field set first and its REVISE completes DONE with the Forced count (R127). Where RETIRE is, the
slot is freed, a watch completes WINDOW_GONE, and the RETIRE completes DONE (R137, R154). The verdict is that of the window as taken,
with the holding that results (R46, R56, R111; log 13, the model's reading for ADVISE_RO and TAG). -/
def Obligations.LastReleaseCompletesRecall : Prop :=
  (∀ (s : State) (k : Agent) (r : Request) (i : SlotId) (w : Window) (c : RecallContext) (l : Level),
     LastAnswer s k r i w c l → c.retire = false → c.revision = false →
     let d := afterAnswer s k i (look c.members k) l
       { w with
         holdings := put w.holdings k l.holding
         pins := if l = .none then put w.pins k 0 else w.pins
         context := none
         idle := idleFrom w.fields.idleLimit s.clock }
     exec .release s =
       .next (answered s k (granted w (slotHandle s.directory i) l.holding r.address) (d.headService s.clock i)) ∧
     (w.waiters = [] → d.headService s.clock i = d)) ∧
  (∀ (s : State) (k : Agent) (r : Request) (i : SlotId) (w : Window) (c : RecallContext) (l : Level) (p : PendingRevision),
     LastAnswer s k r i w c l → c.retire = false → c.revision = true → w.revision = some p →
     let d := withEnd
       (afterAnswer s k i (look c.members k) l
         { w with
           fields := p.fields
           holdings := put w.holdings k l.holding
           pins := if l = .none then put w.pins k 0 else w.pins
           revision := none
           context := none
           idle := idleFrom p.fields.idleLimit s.clock })
       { tag := p.tag, kind := 4, status := .done, word1 := (slotHandle s.directory i).setWidth 32
         word2 := c.forcedCount.setWidth 32, word3 := 0, word4 := 0, word5 := 0 }
     exec .release s =
       .next (answered s k (granted w (slotHandle s.directory i) l.holding r.address) (d.headService s.clock i)) ∧
     (w.waiters = [] → d.headService s.clock i = d)) ∧
  ∀ (s : State) (k : Agent) (r : Request) (i : SlotId) (w : Window) (c : RecallContext) (l : Level) (t : Tag),
    LastAnswer s k r i w c l → c.retire = true → w.retireTag = some t →
    exec .release s =
      .next (answered s k (granted w (slotHandle s.directory i) .none r.address)
        (withRetired (afterAnswer s k i (look c.members k) l w) i w.watch t (slotHandle s.directory i) c.forcedCount))

/-- PIN in OPEN and RECALLING: the checks of R76 in order, and then the pin count one higher and Last Grant now. UNPIN: DENY NOT_HOLDER at
pin count 0; otherwise one pin less and Last Grant now (R78); and a Blocked agent whose count comes to 0 moves to the Outstanding
set with a fresh wait and a RECALL placed (R79), which reaches it after the verdict (log 29). A holder that force revoked at SHARED is
in no set, and pins again there (R77, R110; log 28). -/
def Obligations.PinAndUnpinCount : Prop :=
  (∀ (s : State) (k : Agent) (r : Request) (i : SlotId) (w : Window), Found s k r .pin i w → Online s k →
     (w.state = .opened ∨ w.state = .recalling) →
     (w.holding k = .none → exec .pin s = .next (answered s k (turnedAway w k (.deny .notHolder)) s.directory)) ∧
     (w.holding k ≠ .none →
       (∀ c x, w.context = some c → look c.members k = .outstanding x →
         exec .pin s = .next (answered s k (turnedAway w k (.retry .recalling)) s.directory)) ∧
       ((∀ c x, w.context = some c → look c.members k ≠ .outstanding x) →
         (w.pinCount k = 15 → exec .pin s = .next (answered s k (turnedAway w k (.deny .pinLimit)) s.directory)) ∧
         (w.pinCount k ≠ 15 →
           exec .pin s =
             .next (answered s k (granted w (slotHandle s.directory i) (w.holding k) r.address)
               (withWindow s.directory i { touched w s.clock with pins := put w.pins k (w.pinCount k + 1) })))))) ∧
  ∀ (s : State) (k : Agent) (r : Request) (i : SlotId) (w : Window), Found s k r .unpin i w →
    (w.pinCount k = 0 → exec .unpin s = .next (answered s k (turnedAway w k (.deny .notHolder)) s.directory)) ∧
    (w.pinCount k ≠ 0 → (w.pinCount k = 1 → ∀ c, w.context = some c → look c.members k ≠ .blocked) →
      exec .unpin s =
        .next (answered s k (granted w (slotHandle s.directory i) (w.holding k) r.address)
          (withWindow s.directory i { touched w s.clock with pins := put w.pins k (w.pinCount k - 1) }))) ∧
    ∀ c l, w.pinCount k = 1 → w.context = some c → look c.members k = .blocked → look c.targets k = some l →
      ∃ a n, exec .unpin s =
        .next (answered s k (granted w (slotHandle s.directory i) (w.holding k) r.address)
          (withAgent
            (withWindow s.directory i
              { touched w s.clock with
                pins := put w.pins k 0
                context := some
                  { c with
                    members := put c.members k
                      (.outstanding { freshWait (s.directory.agent k) s.clock n with awaitsVerdict := true }) } })
            k a)) ∧
        RecallPlaced (s.directory.agent k) a i l
          { handle := slotHandle s.directory i, agentBase := w.fields.agentBase, size := w.fields.size } n

/-- WITHDRAW: always GRANT outside RETIRING; an entry that is on the list leaves it; the head of an OPEN window leaves with its
reservation and head service runs for the next (R83). -/
def Obligations.WithdrawLeavesList : Prop :=
  ∀ (s : State) (k : Agent) (r : Request) (i : SlotId) (w : Window), Found s k r .withdraw i w → w.state ≠ .retiring →
    WaitersOnce w → ReservationForHead w →
    let v := granted w (slotHandle s.directory i) (w.holding k) r.address
    ((∀ x ∈ w.waiters, x.agent ≠ k) → exec .withdraw s = .next (answered s k v s.directory)) ∧
    ((w.head ≠ some k ∨ w.context ≠ none) →
      exec .withdraw s =
        .next (answered s k v (withWindow s.directory i { w with waiters := w.waiters.filter (·.agent != k) }))) ∧
    ∀ x rest, w.context = none → w.waiters = x :: rest → x.agent = k →
      let d := withWindow s.directory i { w with waiters := rest, reservation := none }
      exec .withdraw s = .next (answered s k v (d.headService s.clock i)) ∧ (rest = [] → d.headService s.clock i = d)

/-! ### Tick values that pass -/

/-- A retry: Retries Used and the Fault Score one higher, the deadline now plus the timeout, and a RECALL that has been taken placed
again (R106), for an agent whose score stays below its Fence Threshold. -/
def Obligations.DeadlineRetries : Prop :=
  ∀ (i : SlotId) (k : Agent) (s : State) (w : Window) (c : RecallContext) (x : Wait) (l : Level),
    Passing s i k w c x l → x.retriesUsed < (s.directory.agent k).settings.retries.toNat →
    BelowThreshold (s.directory.agent k) 1 →
    let a := { s.directory.agent k with faultScore := scoreAfter (s.directory.agent k) 1 }
    let d := fun n => withWindow s.directory i
      { w with
        context := some
          { c with
            members := put c.members k
              (.outstanding
                { x with
                  retriesUsed := x.retriesUsed + 1
                  deadline := { value := s.clock + (s.directory.agent k).settings.timeout, due := false }
                  notice := n }) } }
    (x.notice ≠ .taken → exec (.recallDeadline i k) s = .next { s with directory := withAgent (d x.notice) k a }) ∧
    (x.notice = .taken → ∃ a' n,
      exec (.recallDeadline i k) s = .next { s with directory := withAgent (d n) k a' } ∧
      RecallPlaced a a' i l { handle := slotHandle s.directory i, agentBase := w.fields.agentBase, size := w.fields.size } n)

/-- A forced revocation on timeout while other agents are still waited for: the holding falls to the target, with the pins cleared
at NONE; the agent leaves its set; the Forced count rises by 1 and the score by 4, and the Detach Forced count by 1 where the agent
is DETACHING; a REVOKED is placed and FORCED_REVOKE set (R37, R107, R109, R160, R190). -/
def Obligations.DeadlineRevokes : Prop :=
  ∀ (i : SlotId) (k j : Agent) (s : State) (w : Window) (c : RecallContext) (x : Wait) (l : Level),
    Passing s i k w c x l → ¬ x.retriesUsed < (s.directory.agent k).settings.retries.toNat →
    BelowThreshold (s.directory.agent k) 4 → DetachGoesOn s k l → j ≠ k → InSet c j →
    ∃ a, exec (.recallDeadline i k) s =
        .next { s with
          directory := { withAgent
              (withWindow s.directory i
                { w with
                  holdings := put w.holdings k l.holding
                  pins := if l = .none then put w.pins k 0 else w.pins
                  context := some
                    { c with
                      members := put c.members k .neither
                      forcedCount := BitVec.ofNat 8 (min 255 (c.forcedCount.toNat + 1)) } }) k a with
            alerts := { s.directory.alerts with
              forcedRevoke := true
              forcedRevokeAgents := s.directory.alerts.forcedRevokeAgents ||| 1#8 <<< k.val } } } ∧
      RevokedPlaced
        { revokedRecord (s.directory.agent k) l with faultScore := scoreAfter (s.directory.agent k) 4 } a i
        { handle := slotHandle s.directory i, agentBase := w.fields.agentBase, size := w.fields.size }

/-- A deadline whose report brings the score to a nonzero Fence Threshold fences the agent in the same event: it is FENCED, in no
window any more, and the FENCED alert is set with its bit (R31, R106, R107, R164, R167). -/
def Obligations.ThresholdFencesAgent : Prop :=
  ∀ (i : SlotId) (k : Agent) (s : State) (w : Window) (c : RecallContext) (x : Wait) (l : Level),
    Passing s i k w c x l →
    ¬ BelowThreshold (s.directory.agent k)
      (if x.retriesUsed < (s.directory.agent k).settings.retries.toNat then 1 else 4) →
    ∃ t, exec (.recallDeadline i k) s = .next t ∧ (t.directory.agent k).state = .fenced ∧
      StruckEverywhere t.directory k ∧ t.directory.alerts.fenced = true ∧
      t.directory.alerts.fencedAgents.getLsbD k.val = true

/-- A reservation lapses: it ends, its agent leaves the list, and head service runs (R91); the agent's record is not touched. -/
def Obligations.ReservationLapses : Prop :=
  ∀ (i : SlotId) (s : State) (w : Window) (x : Reservation),
    s.directory.window i = some w → w.reservation = some x → x.expiry.due = true →
    let d := withWindow s.directory i
      { w with reservation := none, waiters := w.waiters.filter (·.agent != x.agent) }
    exec (.reservationLapse i) s = .next { s with directory := d.headService s.clock i } ∧
    ((∀ y ∈ w.waiters, y.agent = x.agent) → d.headService s.clock i = d)

/-- An idle deadline that passes: with the four conditions of R146 a recall with cause IDLE asks every unpinned holder for its copy
and the deadline is disarmed; otherwise it is armed again from now (R147). -/
def Obligations.IdleDeadlinePasses : Prop :=
  ∀ (i : SlotId) (s : State) (w : Window) (x : Timer),
    s.directory.window i = some w → w.idle = some x → x.due = true →
    ((w.context = none ∧ w.reservation = none ∧ w.waiters = [] ∧ ∃ k, w.holding k ≠ .none ∧ w.pinCount k = 0) →
      ∃ d, exec (.idleDeadline i) s = .next { s with directory := d } ∧ d.parked = s.directory.parked ∧
        RecallStarted s.directory d s.clock i { w with idle := none } idleAlone
          (fun j => if w.holding j ≠ .none ∧ w.pinCount j = 0 then some .none else none)) ∧
    ((w.context ≠ none ∨ w.reservation ≠ none ∨ w.waiters ≠ [] ∨ ∀ k, w.holding k ≠ .none → w.pinCount k ≠ 0) →
      exec (.idleDeadline i) s =
        .next { s with
          directory := withWindow s.directory i { w with idle := idleFrom w.fields.idleLimit s.clock } })

/-- CLOCK_ADVANCE, once the passings of the last advance are taken (R143, log 5): the counter rises by 1, a tick value T passes when
(now − T) modulo 2^32 is below 2^31, and Last Grant stays no further than 65536 ticks behind (R141, R143, R144). -/
def Obligations.ClockAdvanceMakesTicksPass : Prop :=
  ∀ s : State,
    (NothingDue s.directory →
      ∃ slots, exec .clockAdvance s =
          .next { s with clock := s.clock + 1, directory := { s.directory with slots := slots } } ∧
        ∀ i : SlotId, (look slots i).generation = (look s.directory.slots i).generation ∧
          match s.directory.window i, (look slots i).window with
          | none, v => v = none
          | some w, v =>
            ∃ idle reservation context, v = some
                { w with
                  lastGrant :=
                    if 65536 < (s.clock + 1 - w.lastGrant).toNat then s.clock + 1 - 65536 else w.lastGrant
                  idle := idle, reservation := reservation, context := context } ∧
              idle = w.idle.map (passed (s.clock + 1)) ∧
              reservation = w.reservation.map (fun x => { x with expiry := passed (s.clock + 1) x.expiry }) ∧
              (context = none ↔ w.context = none) ∧
              ∀ c c', w.context = some c → context = some c' →
                { c' with members := c.members } = c ∧
                ∀ k, look c'.members k =
                  match look c.members k with
                  | .outstanding x => .outstanding { x with deadline := passed (s.clock + 1) x.deadline }
                  | .neither => .neither
                  | .blocked => .blocked) ∧
    (¬ NothingDue s.directory → exec .clockAdvance s = .next s)

/-! ### Commands -/

/-- The checks before a command's own: UNKNOWN_COMMAND where the kind names no command, and then TAG_IN_USE where a parked command
carries the tag; the record has words 1–5 zero and nothing else changes (R178). -/
def Obligations.ChecksBeforeEveryCommand : Prop :=
  ∀ (s : State) (e : Entry) (rest : List Entry), Oldest s e rest →
    ((e.kind = 0 ∨ 13 ≤ e.kind.toNat) →
      exec .unknownCommand s = .next (taken s rest (withRecord s.directory (plainRecord e .unknownCommand 0)))) ∧
    ∀ kind : CommandKind, e.kind = kind.code → (∃ p ∈ s.directory.parked, p.tag = e.tag) →
      exec (commandOf kind) s = .next (taken s rest (withRecord s.directory (plainRecord e .tagInUse 0)))

/-- The fields of a supplied field set at their bits in PARAM0–PARAM4, and the items of a QUERY record at their bits: holdings, state,
pins, waiters, reservation, revision, watch and the two masks, in the codes of R197 (R18, R195). -/
def Obligations.ParamAndRecordLayouts : Prop :=
  (∀ p : Vector Word 8,
     let f := SuppliedFields.ofParams p
     f.agentBase.extractLsb' 0 32 = look p 0 ∧ f.agentBase.extractLsb' 32 8 = (look p 1).extractLsb' 0 8 ∧
     f.size = (look p 1).extractLsb' 8 6 ∧ f.cacheable = (look p 1).getLsbD 16 ∧ f.adviseRo = (look p 1).getLsbD 17 ∧
     f.tag = (look p 1).extractLsb' 20 2 ∧
     f.targetBase.extractLsb' 0 32 = look p 2 ∧ f.targetBase.extractLsb' 32 8 = (look p 3).extractLsb' 0 8 ∧
     (∀ k : Agent, f.rightCode k = (look p 4).extractLsb' (2 * k.val) 2) ∧ f.idleLimit = (look p 4).extractLsb' 16 16 ∧
     ∀ k : Agent, (f.rightCode k = 0 → look f.fieldSet.rights k = .none) ∧
       (f.rightCode k = 1 → look f.fieldSet.rights k = .read) ∧ (f.rightCode k = 2 → look f.fieldSet.rights k = .write)) ∧
  ∀ (w : Window), WaitersOnce w →
    (∀ k : Agent,
      (w.stateWord.extractLsb' (2 * k.val) 2).toNat = holdingNumber (w.holding k) ∧
      w.pinsWord.extractLsb' (4 * k.val) 4 = w.pinCount k ∧
      w.recallWord.getLsbD k.val = (w.context.any fun c => (look c.members k).isOutstanding) ∧
      w.recallWord.getLsbD (8 + k.val) = (w.context.any fun c => (look c.members k).isBlocked)) ∧
    (w.stateWord.extractLsb' 16 16).toNat = windowStateNumber w.state ∧ w.recallWord.extractLsb' 16 16 = 0 ∧
    (w.waitWord.extractLsb' 0 4).toNat = w.waiters.length ∧
    (w.waitWord.extractLsb' 4 3).toNat = ((w.head.map (·.val)).getD 0) ∧
    w.waitWord.getLsbD 8 = w.reservation.isSome ∧
    (w.waitWord.extractLsb' 9 3).toNat = ((w.reservation.map (·.agent.val)).getD 0) ∧
    w.waitWord.getLsbD 12 = w.revision.isSome ∧ w.waitWord.getLsbD 13 = w.watch.isSome ∧
    w.waitWord.getLsbD 7 = false ∧ w.waitWord.extractLsb' 14 18 = 0

/-- OPEN with a free slot, a sound field set and no overlap: the lowest FREE slot holds the window, empty and OPEN, and the record is
DONE with its handle; no other record changes. Otherwise the refusals in their order, each with word 1 zero and no other change:
TABLE_FULL, MISALIGNED, BAD_SIZE, BAD_FIELD, OVERLAP (R13, R14, R17). -/
def Obligations.OpenFillsLowestFreeSlot : Prop :=
  (∀ (s : State) (e : Entry) (rest : List Entry) (i : SlotId), Command s .openWindow e rest →
     s.directory.window i = none → (∀ j, j < i → s.directory.window j ≠ none) →
     FieldsSound (SuppliedFields.ofParams e.params) →
     (∀ j, ∀ v ∈ s.directory.window j, Clear v (SuppliedFields.ofParams e.params).fieldSet) →
     exec .openWindow s =
       .next (taken s rest
         (withRecord
           (withWindow s.directory i
             { fields := (SuppliedFields.ofParams e.params).fieldSet
               lastGrant := s.clock
               idle := idleFrom (SuppliedFields.ofParams e.params).idleLimit s.clock
               holdings := Vector.replicate 8 .none, pins := Vector.replicate 8 0, waiters := [], reservation := none
               revision := none, context := none, watch := none, retireTag := none })
           (plainRecord e .done ((slotHandle s.directory i).setWidth 32))))) ∧
  ∀ (s : State) (e : Entry) (rest : List Entry), Command s .openWindow e rest →
    let refused := fun status => exec .openWindow s = .next (taken s rest (withRecord s.directory (plainRecord e status 0)))
    let f := SuppliedFields.ofParams e.params
    ((∀ j, s.directory.window j ≠ none) → refused .tableFull) ∧
    ((∃ j, s.directory.window j = none) →
      (∀ status, FieldsRefused f status → refused status) ∧
      (FieldsSound f → (∃ j, ∃ v ∈ s.directory.window j, ¬ Clear v f.fieldSet) → refused .overlap))

/-- QUERY and QUERY_ADDR: the handle check and the match, each with the record it writes and nothing else changed (R3, R15, R18,
R19). -/
def Obligations.QueriesReport : Prop :=
  ∀ (s : State) (e : Entry) (rest : List Entry),
    (Command s .query e rest →
      let h := (look e.params 0).extractLsb' 0 16
      (Stale s.directory h →
        exec .query s = .next (taken s rest (withRecord s.directory (plainRecord e .staleHandle (h.setWidth 32))))) ∧
      ∀ i w, Names s.directory h i w →
        exec .query s =
          .next (taken s rest (withRecord s.directory
            { tag := e.tag, kind := e.kind, status := .done, word1 := h.setWidth 32, word2 := w.stateWord
              word3 := w.pinsWord, word4 := w.waitWord, word5 := w.recallWord }))) ∧
    (Command s .queryAddr e rest →
      let a := (look e.params 1).extractLsb' 0 8 ++ look e.params 0
      (Unmatched s.directory a →
        exec .queryAddr s = .next (taken s rest (withRecord s.directory (plainRecord e .notFound 0)))) ∧
      ∀ i w, Matches s.directory a i w →
        exec .queryAddr s =
          .next (taken s rest (withRecord s.directory
            (plainRecord e .done ((slotHandle s.directory i).setWidth 32)))))

/-- The refusals of REVISE, RETIRE and WATCH in their order, each with the handle as supplied in word 1 and no other change (R121,
R132, R150). -/
def Obligations.WindowCommandRefusals : Prop :=
  ∀ (s : State) (e : Entry) (rest : List Entry) (kind : CommandKind) (word : Word),
    Command s kind e rest →
    (kind = .revise ∧ word = look e.params 5 ∨ (kind = .retire ∨ kind = .watch) ∧ word = look e.params 0) →
    let refused := fun status =>
      exec (commandOf kind) s =
        .next (taken s rest (withRecord s.directory (plainRecord e status ((word.extractLsb' 0 16).setWidth 32))))
    let f := SuppliedFields.ofParams e.params
    (Stale s.directory (word.extractLsb' 0 16) → refused .staleHandle) ∧
    ∀ i w, Names s.directory (word.extractLsb' 0 16) i w →
      (w.state = .retiring → refused .retiring) ∧
      (w.state ≠ .retiring →
        (kind = .revise → w.state = .revising → refused .busy) ∧
        (kind = .revise → w.state ≠ .revising →
          (∀ status, FieldsRefused f status → refused status) ∧
          (FieldsSound f → (∃ j, j ≠ i ∧ ∃ v ∈ s.directory.window j, ¬ Clear v f.fieldSet) → refused .overlap)) ∧
        (kind = .watch → w.watch ≠ none → refused .busy) ∧
        (kind = .watch → w.watch = none →
          ((look e.params 1).extractLsb' 0 8 = 0 ∨ (look e.params 1).extractLsb' 8 2 = 0) → refused .badField))

/-- A REVISE that is accepted in OPEN and affects no holding is applied in its event: the reservation is dropped, the field set
replaced, the idle deadline armed from Last Grant, head service runs, and REVISE completes DONE with Forced count 0 (R122, R123). -/
def Obligations.ReviseAppliesAtOnce : Prop :=
  ∀ (s : State) (e : Entry) (rest : List Entry) (i : SlotId) (w : Window), RevisePasses s e rest i w →
    w.context = none → (∀ k, affectedTo w (SuppliedFields.ofParams e.params).fieldSet k = none) →
    let d := withWindow s.directory i
      { w with
        fields := (SuppliedFields.ofParams e.params).fieldSet
        reservation := none
        idle := idleFrom (SuppliedFields.ofParams e.params).idleLimit w.lastGrant }
    exec .revise s =
      .next (taken s rest
        (withRecord (d.headService s.clock i) (plainRecord e .done ((slotHandle s.directory i).setWidth 32)))) ∧
    (w.waiters = [] → d.headService s.clock i = d)

/-- A REVISE that is accepted and not applied at once stages its field set: in OPEN a recall with cause REVISION starts (R124), in
RECALLING the REVISE joins the running recall whether or not it affects a holding (R125, in its steps' order, which R99's
closing order follows: log 11, the model's reading). Each affected holder is asked down to the level its new right allows; a pinned one
is Blocked, and with the force flag it and every Blocked agent are revoked at once (R99, R100, R101, R109, R110). While an agent is in a set the REVISE is parked; with none the revision is applied in
this event and the REVISE completes DONE with the Forced count (R117, R118, R127). -/
def Obligations.ReviseStagesRevision : Prop :=
  ∀ (s : State) (e : Entry) (rest : List Entry) (i : SlotId) (w : Window) (c : RecallContext), RevisePasses s e rest i w →
    SetsSound w → ReservationForHead w →
    let f := (SuppliedFields.ofParams e.params).fieldSet
    let force := (look e.params 5).getLsbD 16
    (w.context = none ∧ (∃ k, affectedTo w f k ≠ none) ∧ c = { revisionAlone with force := force } ∨
      ∃ c₀, w.context = some c₀ ∧ c₀.force = false ∧ c = { c₀ with revision := true, force := force }) →
    ForceEndsNoDetach s w force →
    ∃ d w' c',
      CauseMerged s.directory d s.clock i
        { w with reservation := none, revision := some { fields := f, force := force, tag := e.tag } } w' c c' force true
        (affectedTo w f) ∧
      ((∃ k, InSet c' k) →
        exec .revise s =
          .next (taken s rest { d with parked := s.directory.parked ++ [{ tag := e.tag, work := .revise i }] })) ∧
      ((∀ k, ¬ InSet c' k) → (∀ k, (s.directory.agent k).holdsRecall i = false) →
        exec .revise s =
          .next (taken s rest
            (Directory.headService
              (withEnd
                (withWindow d i
                  { w' with fields := f, revision := none, context := none, idle := idleFrom f.idleLimit s.clock })
                { tag := e.tag, kind := 4, status := .done, word1 := (slotHandle s.directory i).setWidth 32
                  word2 := c'.forcedCount.setWidth 32, word3 := 0, word4 := 0, word5 := 0 }) s.clock i)))

/-- RETIRE of a window that no agent holds and no recall runs for: the slot is freed at once, a watch completes WINDOW_GONE and the
RETIRE DONE. In every other case the waiters and the reservation go, a pending revision is superseded, its REVISE's record SUPERSEDED
with the Forced count, and cause RETIRE starts a recall or joins the running one with every holder as a target at NONE (R132 to R135);
with the force flag every pinned holder is revoked at once, to NONE, since the targets are merged before the Blocked set is revoked
(R99, R101, R110; where the RETIRE supersedes: log 12). While an agent is in a set the RETIRE is parked; with none the retirement
completes in this event (R117, R137). -/
def Obligations.RetireRemovesWindow : Prop :=
  ∀ (s : State) (e : Entry) (rest : List Entry) (i : SlotId) (w : Window), Command s .retire e rest →
    Names s.directory ((look e.params 0).extractLsb' 0 16) i w →
    let force := (look e.params 0).getLsbD 16
    (w.context = none → w.revision = none → (∀ k, w.holding k = .none) →
      (∀ x ∈ w.watch, x.tag ≠ e.tag) → (∀ k, (s.directory.agent k).holdsRecall i = false) →
      exec .retire s =
        .next (taken s rest (withRetired s.directory i w.watch e.tag (slotHandle s.directory i) 0))) ∧
    ∀ c, w.state ≠ .retiring → SetsSound w → PartsFollowCauses w →
      (w.context = none ∧ c = { retireAlone with force := force } ∨
        ∃ c₀, w.context = some c₀ ∧ (c₀.revision = false → c₀.force = false) ∧
          c = { c₀ with revision := false, retire := true, force := force }) →
      ForceEndsNoDetach s w force →
      ∃ d w' c',
        CauseMerged
          (match w.revision with
            | none => s.directory
            | some p =>
              withEnd s.directory
                { tag := p.tag, kind := 4, status := .superseded, word1 := (slotHandle s.directory i).setWidth 32
                  word2 := c.forcedCount.setWidth 32, word3 := 0, word4 := 0, word5 := 0 })
          d s.clock i { w with reservation := none, waiters := [], revision := none, retireTag := some e.tag } w' c c' force
          false (fun k => if w.holding k = .none then none else some .none) ∧
        ((∃ k, InSet c' k) →
          exec .retire s = .next (taken s rest { d with parked := d.parked ++ [{ tag := e.tag, work := .retire i }] })) ∧
        ((∀ k, ¬ InSet c' k) → (∀ k, (s.directory.agent k).holdsRecall i = false) →
          exec .retire s =
            .next (taken s rest (withRetired d i w.watch e.tag (slotHandle s.directory i) c'.forcedCount)))

/-- WATCH that passes its checks creates the watch and parks (R150). ABORT: NOT_FOUND where no parked command carries the named tag,
NOT_ABORTABLE for a RETIRE; for a WATCH the watch ends, and its record ABORTED stands before the ABORT's own DONE (R138, R153, R182).
For an AGENT_DETACH the agent is ONLINE again and leaves every Detach Agents: a recall with another cause goes on, with targets and
sets as they were, and one without ends as R116 states; the ABORTED record carries the Detach Forced count (R162). -/
def Obligations.WatchParksAndAborts : Prop :=
  ∀ (s : State) (e : Entry) (rest : List Entry),
    (∀ i w, Command s .watch e rest → Names s.directory ((look e.params 0).extractLsb' 0 16) i w → w.state ≠ .retiring →
      w.watch = none → (look e.params 1).extractLsb' 0 8 ≠ 0 → (look e.params 1).extractLsb' 8 2 ≠ 0 →
      exec .watch s =
        .next (taken s rest
          { withWindow s.directory i
              { w with
                watch := some
                  { agents := (look e.params 1).extractLsb' 0 8, reads := (look e.params 1).getLsbD 8
                    writes := (look e.params 1).getLsbD 9, tag := e.tag } } with
            parked := s.directory.parked ++ [{ tag := e.tag, work := .watch i }] })) ∧
    (Command s .abort e rest →
      let named := (look e.params 0).extractLsb' 0 8
      let own := fun status => plainRecord e status (named.setWidth 32)
      ((∀ p ∈ s.directory.parked, p.tag ≠ named) →
        exec .abort s = .next (taken s rest (withRecord s.directory (own .notFound)))) ∧
      ∀ u v p, s.directory.parked = u ++ p :: v → p.tag = named → (∀ q ∈ u, q.tag ≠ named) →
        (∀ i, p.work = .retire i → exec .abort s = .next (taken s rest (withRecord s.directory (own .notAbortable)))) ∧
        (∀ i w, p.work = .watch i → s.directory.window i = some w →
          exec .abort s =
            .next (taken s rest
              (withRecord
                (withEnd (withWindow s.directory i { w with watch := none })
                  { tag := named, kind := 6, status := .aborted, word1 := (slotHandle s.directory i).setWidth 32
                    word2 := 0, word3 := 0, word4 := 0, word5 := 0 }) (own .done)))) ∧
        ∀ k x, p.work = .detach k → (s.directory.agent k).detach = some x → x.tag = named →
          let back := fun d : Directory => withAgent d k { d.agent k with state := .online, detach := none }
          let ended := fun d : Directory =>
            exec .abort s =
              .next (taken s rest
                (withRecord
                  (withEnd d
                    { tag := named, kind := 11, status := .aborted, word1 := BitVec.ofNat 32 k.val
                      word2 := BitVec.ofNat 32 x.forced, word3 := 0, word4 := 0, word5 := 0 }) (own .done)))
          ((∀ j, ∀ w ∈ s.directory.window j, ∀ c ∈ w.context, look c.detachAgents k = true → OtherCause c k) →
            ended (back (withoutDetach s.directory k))) ∧
          ∀ i w c, s.directory.window i = some w → w.context = some c → look c.detachAgents k = true → ¬ OtherCause c k →
            (∀ j, j ≠ i → ∀ w' ∈ s.directory.window j, ∀ c' ∈ w'.context, look c'.detachAgents k = true → OtherCause c' k) →
            (∀ j, NothingWaitsFor s.directory j i) →
            let d := back (withdrawn (withWindow (withoutDetach s.directory k) i
              { w with context := none, idle := idleFrom w.fields.idleLimit s.clock }) i)
            ended (d.headService s.clock i) ∧ (w.waiters = [] → w.reservation = none → d.headService s.clock i = d))

/-- ABORT of a parked REVISE: the pending revision is discarded, REVISION and Force leave the context, and the REVISE completes
ABORTED with the Forced count before the ABORT's DONE. Where the window is recalled for another cause too, targets and sets stay (R95,
R116, R130). Where REVISION was the last cause the context ends: every agent leaves its set without score, the RECALLs are withdrawn,
the window is OPEN with its idle deadline armed from now, and head service runs (R38, R116, R118). -/
def Obligations.AbortRevisionKeepsOtherCauses : Prop :=
  ∀ (s : State) (e : Entry) (rest : List Entry) (u v : List Parked) (p : Parked) (i : SlotId) (w : Window)
    (c : RecallContext), Command s .abort e rest → s.directory.parked = u ++ p :: v →
    p.tag = (look e.params 0).extractLsb' 0 8 → (∀ q ∈ u, q.tag ≠ p.tag) → p.work = .revise i →
    s.directory.window i = some w → w.context = some c →
    let ended := fun d : Directory =>
      exec .abort s =
        .next (taken s rest
          (withRecord
            (withEnd d
              { tag := p.tag, kind := 4, status := .aborted, word1 := (slotHandle s.directory i).setWidth 32
                word2 := c.forcedCount.setWidth 32, word3 := 0, word4 := 0, word5 := 0 })
            (plainRecord e .done (p.tag.setWidth 32))))
    ((c.waiter = true ∨ c.idle = true ∨ c.retire = true ∨ ∃ k, look c.detachAgents k = true) →
      ended (withWindow s.directory i
        { w with revision := none, context := some { c with revision := false, force := false } })) ∧
    (c.waiter = false → c.idle = false → c.retire = false → (∀ k, look c.detachAgents k = false) →
      (∀ k, NothingWaitsFor s.directory k i) →
      let d := withdrawn (withWindow s.directory i
        { w with revision := none, context := none, idle := idleFrom w.fields.idleLimit s.clock }) i
      ended (d.headService s.clock i) ∧ (w.waiters = [] → w.reservation = none → d.headService s.clock i = d))

/-- AGENT_ADMIT, AGENT_SET and AGENT_QUERY: BAD_FIELD for an agent number above 7 or settings that name no value, BAD_STATE by the
agent's state, and otherwise DONE with the effect of R27, R28 or R29; AGENT_QUERY reports state, score, Holding Count, total pins,
queue, backlog and settings at their bits (R195, R197), each count as far as its field goes (log 26, the model's). -/
def Obligations.AgentCommands : Prop :=
  ∀ (s : State) (e : Entry) (rest : List Entry) (kind : CommandKind), Command s kind e rest →
    let number := (look e.params 0).extractLsb' 0 4
    let word := look e.params 1
    let settings : Settings :=
      { timeoutSelect := word.extractLsb' 0 2, retries := word.extractLsb' 2 2, fenceThreshold := word.extractLsb' 8 8
        unmatched := if word.getLsbD 16 then .pass else .deny, reservationHold := word.extractLsb' 24 8 }
    let reply := fun status => plainRecord e status (number.setWidth 32)
    let refused := fun status => exec (commandOf kind) s = .next (taken s rest (withRecord s.directory (reply status)))
    (kind = .agentAdmit ∨ kind = .agentSet ∨ kind = .agentQuery ∨ kind = .agentDetach ∨ kind = .agentFence →
      7 < number.toNat → refused .badField) ∧
    ∀ k : Agent, number.toNat = k.val →
      let x := (s.directory.agent k).settings
      ((kind = .agentAdmit ∨ kind = .agentSet) → (settings.retries = 3 ∨ settings.reservationHold = 0) →
        refused .badField) ∧
      (settings.retries ≠ 3 → settings.reservationHold ≠ 0 →
        (kind = .agentAdmit → InService s k → refused .badState) ∧
        (kind = .agentAdmit → ¬ InService s k →
          exec .agentAdmit s =
            .next (taken s rest
              (withRecord
                (withAgent s.directory k
                  { s.directory.agent k with state := .online, settings := settings, faultScore := 0, detach := none })
                (reply .done)))) ∧
        (kind = .agentSet → ¬ InService s k → refused .badState) ∧
        (kind = .agentSet → InService s k →
          exec .agentSet s =
            .next (taken s rest
              (withRecord (withAgent s.directory k { s.directory.agent k with settings := settings }) (reply .done))))) ∧
      (kind = .agentQuery →
        exec .agentQuery s =
          .next (taken s rest
            (withRecord s.directory
              { reply .done with
                word2 := BitVec.ofNat 32
                  (agentStateNumber (s.directory.agent k).state + 2 ^ 8 * (s.directory.agent k).faultScore.toNat +
                    2 ^ 16 * ((s.directory.agent k).holdingCount % 256))
                word3 := BitVec.ofNat 32
                  (pinsOf s.directory k % 2 ^ 11 + 2 ^ 16 * ((s.directory.agent k).notices.length % 8) +
                    2 ^ 24 * ((s.directory.agent k).backlog.length % 256))
                word4 := BitVec.ofNat 32
                  (x.timeoutSelect.toNat + 2 ^ 2 * x.retries.toNat + 2 ^ 8 * x.fenceThreshold.toNat +
                    2 ^ 16 * (if x.unmatched = .pass then 1 else 0) + 2 ^ 24 * x.reservationHold.toNat) }))) ∧
      (kind = .agentDetach → ¬ Online s k → refused .badState) ∧
      (kind = .agentFence → ¬ InService s k → refused .badState)

/-- AGENT_DETACH of an ONLINE agent, which becomes DETACHING: it leaves every waiter list, with head service where it was the head of an
OPEN window (R84), and then, in ascending slot order, cause DETACH starts or joins a recall in every window where it holds (R157, R158).
With a Holding Count above 0 after that the command is parked; at 0 the detach completes, its record last (R161). An agent that waits
nowhere and holds nothing is OFFLINE at once, its notices emptied, and the record is DONE with Detach Forced count 0; one that holds in
one OPEN window is asked for its copy. With the force flag a pinned copy is revoked at once, with its pins and without score or alert:
in an OPEN window the recall completes with it and in a running recall, from the Blocked set too, the others are waited for; the detach
is then DONE with Detach Forced count 1 (R99, R101, R110, R158, R160). A parked detach completes in the event that brings the Holding
Count to 0, and its record is that event's last: a RELEASE to NONE, a revocation on timeout, and one by a forced REVISE or RETIRE that
joins the recall in which the agent is Blocked (R160, R161; R181, fifth point, in a taking too: log 10). -/
def Obligations.DetachAsksForHoldings : Prop :=
  (∀ (s : State) (k : Agent) (p : DetachInProgress),
    (s.directory.agent k).state = .detaching → (s.directory.agent k).detach = some p →
    (s.directory.agent k).holdingCount = 1 →
    (∀ r i w, Found s k r .release i w → r.level = 0 → w.holding k ≠ .none →
      ∃ d, exec .release s = .next (answered s k (granted w (slotHandle s.directory i) .none r.address) d) ∧
        DetachEnded s.directory d k p p.forced) ∧
    (∀ i w c x, Passing s i k w c x .none → ¬ x.retriesUsed < (s.directory.agent k).settings.retries.toNat →
      BelowThreshold (s.directory.agent k) 4 →
      ∃ d, exec (.recallDeadline i k) s = .next { s with directory := d } ∧
        DetachEnded s.directory d k p (p.forced + 1)) ∧
    ∀ e rest i w c, w.context = some c → look c.members k = .blocked → look c.targets k = some .none →
      w.holding k ≠ .none → (∀ j, j ≠ k → (s.directory.agent j).state ≠ .detaching) →
      (RevisePasses s e rest i w → (look e.params 5).getLsbD 16 = true →
        ∃ d, exec .revise s = .next (taken s rest d) ∧ DetachEnded s.directory d k p (p.forced + 1)) ∧
      (Command s .retire e rest → Names s.directory ((look e.params 0).extractLsb' 0 16) i w → w.state ≠ .retiring →
        (look e.params 0).getLsbD 16 = true →
        ∃ d, exec .retire s = .next (taken s rest d) ∧ DetachEnded s.directory d k p (p.forced + 1))) ∧
  ∀ (s : State) (e : Entry) (rest : List Entry) (k : Agent), Command s .agentDetach e rest →
    ((look e.params 0).extractLsb' 0 4).toNat = k.val → Online s k →
    let force := (look e.params 0).getLsbD 16
    let begun := withAgent s.directory k
      { s.directory.agent k with state := .detaching, detach := some { tag := e.tag, forced := 0 } }
    (∃ d, DetachAsked (leftLists begun s.clock k) d s.clock k force ∧
      ((d.agent k).holdingCount ≠ 0 →
        exec .agentDetach s =
          .next (taken s rest { d with parked := d.parked ++ [{ tag := e.tag, work := .detach k }] })) ∧
      ((d.agent k).holdingCount = 0 → ∀ p, (d.agent k).detach = some p →
        ∃ d', exec .agentDetach s = .next (taken s rest d') ∧ DetachEnded s.directory d' k p p.forced)) ∧
    ((∀ j, ∀ w ∈ s.directory.window j, ∀ x ∈ w.waiters, x.agent ≠ k) →
     (∀ j, ∀ w ∈ s.directory.window j, ∀ c ∈ w.context, look c.detachAgents k = false) →
      let gone := fun d : Directory =>
        withAgent d k
          { s.directory.agent k with state := .offline, holdingCount := 0, notices := [], backlog := [], detach := none }
      let own : Record := plainRecord e .done (BitVec.ofNat 32 k.val)
      ((∀ j, ∀ w ∈ s.directory.window j, w.holding k = .none) → (s.directory.agent k).holdingCount = 0 →
        exec .agentDetach s = .next (taken s rest (withRecord (gone s.directory) own))) ∧
      ∀ i w, s.directory.window i = some w → w.holding k ≠ .none →
        (∀ j, j ≠ i → ∀ v ∈ s.directory.window j, v.holding k = .none) →
        (w.context = none → (s.directory.agent k).holdingCount ≠ 0 → (force = true → w.pinCount k = 0) →
          ∃ d, exec .agentDetach s = .next (taken s rest d) ∧
            d.parked = s.directory.parked ++ [{ tag := e.tag, work := .detach k }] ∧
            RecallStarted begun d s.clock i w
              { RecallContext.blank false with detachAgents := put (Vector.replicate 8 false) k true }
              (fun j => if j = k then some .none else none)) ∧
        (force = true → (s.directory.agent k).holdingCount = 1 → w.pinCount k ≠ 0 →
          (w.context = none → (∀ j, (s.directory.agent j).holdsRecall i = false) →
            let d := gone (withWindow s.directory i
              { w with
                holdings := put w.holdings k .none, pins := put w.pins k 0, reservation := none
                idle := idleFrom w.fields.idleLimit s.clock })
            exec .agentDetach s =
              .next (taken s rest (withRecord (d.headService s.clock i) { own with word2 := 1 })) ∧
            (w.waiters = [] → d.headService s.clock i = d)) ∧
          ∀ c j, w.context = some c → j ≠ k → InSet c j → OtherCause c k → (∀ x, look c.members k ≠ .outstanding x) →
            exec .agentDetach s =
              .next (taken s rest
                (withRecord
                  (gone (withWindow s.directory i
                    { w with
                      holdings := put w.holdings k .none, pins := put w.pins k 0
                      context := some
                        { c with
                          targets := put c.targets k none, members := put c.members k .neither
                          forcedCount := BitVec.ofNat 8 (min 255 (c.forcedCount.toNat + 1)) } }))
                  { own with word2 := 1 }))))

/-- AGENT_FENCE and AGENT_RESET end with the agent FENCED or OFFLINE and struck from every window: no holding, pin, waiter entry,
reservation, set, target or notice is left (R164, R166, R169). The fence keeps score and settings and its DONE record comes last
(R165); the reset empties the port, clears the score, keeps the settings and sets the AGENT_RESET alert with the agent's bit. A
detach in progress ends with the record AGENT_LOST, after every other record of the loss, and an agent whose Holding Count counted its
holdings ends with count 0 (R32, R164, step 3). -/
def Obligations.AgentLossStrikesEverywhere : Prop :=
  (∀ (s : State) (e : Entry) (rest : List Entry) (k : Agent), Command s .agentFence e rest →
    ((look e.params 0).extractLsb' 0 4).toNat = k.val → InService s k →
    ∃ d, exec .agentFence s = .next (taken s rest (withRecord d (plainRecord e .done (BitVec.ofNat 32 k.val)))) ∧
      StruckEverywhere d k ∧ LossRecorded s.directory d k ∧ (d.agent k).state = .fenced ∧ (d.agent k).detach = none ∧
      (d.agent k).faultScore = (s.directory.agent k).faultScore ∧
      (d.agent k).settings = (s.directory.agent k).settings ∧ d.alerts = s.directory.alerts) ∧
  ∀ (s : State) (k : Agent),
    ∃ d, exec (.agentReset k) s = .next { s with ports := put s.ports k .empty, directory := d } ∧
      StruckEverywhere d k ∧ LossRecorded s.directory d k ∧ (d.agent k).state = .offline ∧ (d.agent k).detach = none ∧
      (d.agent k).faultScore = 0 ∧ (d.agent k).settings = (s.directory.agent k).settings ∧
      d.alerts = { s.directory.alerts with
        agentReset := true, agentResetAgents := s.directory.alerts.agentResetAgents ||| 1#8 <<< k.val }

/-! ### The laws that every step keeps -/

/-- At most one agent holds OWNER, and while one does every other agent holds NONE (R70); a pin count is above 0 only for a holder
(R75): every step keeps each. -/
def Obligations.StepKeepsOwnersAndPins : Prop :=
  (∀ s t : State, EveryWindow SingleOwner s.directory → step s = .next t → EveryWindow SingleOwner t.directory) ∧
  ∀ s t : State, EveryWindow PinsHeld s.directory → step s = .next t → EveryWindow PinsHeld t.directory

/-- The ranges of distinct windows, each with its pending revision's range, do not overlap (R14): every step keeps it. -/
def Obligations.StepKeepsRangesApart : Prop :=
  ∀ s t : State, RangesApart s.directory → step s = .next t → RangesApart t.directory

/-- A Notice Queue holds at most 4 notices and at most one per slot, and the Revoked Backlog at most one entry per slot (R34, R39); the
Command Queue holds at most 4 entries (R176): every step keeps each. -/
def Obligations.StepKeepsQueueBounds : Prop :=
  (∀ s t : State, EveryAgent (fun a => NoticesBounded a ∧ BacklogKeyed a) s.directory → step s = .next t →
    EveryAgent (fun a => NoticesBounded a ∧ BacklogKeyed a) t.directory) ∧
  ∀ s t : State, CommandsBounded s → step s = .next t → CommandsBounded t

/-- An agent is at most once on a waiter list, and a reservation stands only in OPEN and for the head (R80, R88): every step keeps
it. -/
def Obligations.StepKeepsWaitersAndReservation : Prop :=
  ∀ s t : State, EveryWindow (fun w => WaitersOnce w ∧ ReservationForHead w) s.directory → step s = .next t →
    EveryWindow (fun w => WaitersOnce w ∧ ReservationForHead w) t.directory

/-- A pending revision exists exactly while REVISION is a cause, a Retire Tag exactly while RETIRE is, and a RETIRING window has no
waiter (R10, R120, R134): every step keeps it. With it every step keeps that parked commands and the records that keep their tags
match one to one, no two with one tag (R155, R180), and that Parked List and Completion Queue together hold at most 16 entries
(R177). -/
def Obligations.StepKeepsPartsAndParkedCommands : Prop :=
  (∀ s t : State, EveryWindow PartsFollowCauses s.directory → step s = .next t → EveryWindow PartsFollowCauses t.directory) ∧
  ∀ s t : State, ParkedLaws s.directory → step s = .next t → ParkedLaws t.directory

/-- Every step keeps, together: the Holding Count equals the number of windows held in (R32); Outstanding and Blocked agents are exactly
those above their targets, unpinned and pinned (R96, R99); a context has a cause (R94); in RETIRING every holder, and in REVISING every
holder the new fields do not allow, is a target (R122, R135); holdings stay within rights and CACHEABLE (R7, R71); no idle deadline at
Idle Limit 0 (R145); and an OFFLINE or FENCED agent has no notice and no holding, and only ONLINE agents wait (R24). -/
def Obligations.StepKeepsRecallLaws : Prop :=
  ∀ s t : State, RecallLaws s.directory → step s = .next t → RecallLaws t.directory

/-- The laws above hold after power-on. -/
def Obligations.LawsHoldAfterPowerOn : Prop :=
  EveryWindow SingleOwner State.reset.directory ∧ EveryWindow PinsHeld State.reset.directory ∧
  EveryAgent (fun a => NoticesBounded a ∧ BacklogKeyed a) State.reset.directory ∧
  EveryWindow (fun w => WaitersOnce w ∧ ReservationForHead w) State.reset.directory ∧
  EveryWindow PartsFollowCauses State.reset.directory ∧ CommandsBounded State.reset ∧
  RangesApart State.reset.directory ∧ ParkedLaws State.reset.directory ∧ RecallLaws State.reset.directory
end

