-- ==== Sys2Proof/Laws/State.lean ====
section
/-! SUPPORT. One lemma per field per update: the fields an update leaves alone, and the value of the one it sets. -/

namespace Sys2Proof.Machine

/-! ### Updates of the directory -/

@[simp] theorem Directory.agents_modWindow (d : Directory) (i : SlotId) (f : Window → Window) : (d.modWindow i f).agents = d.agents := rfl
@[simp] theorem Directory.parked_modWindow (d : Directory) (i : SlotId) (f : Window → Window) : (d.modWindow i f).parked = d.parked := rfl
@[simp] theorem Directory.completions_modWindow (d : Directory) (i : SlotId) (f : Window → Window) : (d.modWindow i f).completions = d.completions := rfl
@[simp] theorem Directory.alerts_modWindow (d : Directory) (i : SlotId) (f : Window → Window) : (d.modWindow i f).alerts = d.alerts := rfl
@[simp] theorem Directory.choices_modWindow (d : Directory) (i : SlotId) (f : Window → Window) : (d.modWindow i f).choices = d.choices := rfl

@[simp] theorem Directory.slots_modAgent (d : Directory) (k : Agent) (f : AgentRecord → AgentRecord) : (d.modAgent k f).slots = d.slots := rfl
@[simp] theorem Directory.parked_modAgent (d : Directory) (k : Agent) (f : AgentRecord → AgentRecord) : (d.modAgent k f).parked = d.parked := rfl
@[simp] theorem Directory.completions_modAgent (d : Directory) (k : Agent) (f : AgentRecord → AgentRecord) : (d.modAgent k f).completions = d.completions := rfl
@[simp] theorem Directory.alerts_modAgent (d : Directory) (k : Agent) (f : AgentRecord → AgentRecord) : (d.modAgent k f).alerts = d.alerts := rfl
@[simp] theorem Directory.choices_modAgent (d : Directory) (k : Agent) (f : AgentRecord → AgentRecord) : (d.modAgent k f).choices = d.choices := rfl

@[simp] theorem Directory.agents_modContext (d : Directory) (i : SlotId) (f : RecallContext → RecallContext) : (d.modContext i f).agents = d.agents := rfl
@[simp] theorem Directory.parked_modContext (d : Directory) (i : SlotId) (f : RecallContext → RecallContext) : (d.modContext i f).parked = d.parked := rfl
@[simp] theorem Directory.completions_modContext (d : Directory) (i : SlotId) (f : RecallContext → RecallContext) : (d.modContext i f).completions = d.completions := rfl
@[simp] theorem Directory.alerts_modContext (d : Directory) (i : SlotId) (f : RecallContext → RecallContext) : (d.modContext i f).alerts = d.alerts := rfl
@[simp] theorem Directory.choices_modContext (d : Directory) (i : SlotId) (f : RecallContext → RecallContext) : (d.modContext i f).choices = d.choices := rfl

@[simp] theorem Directory.agents_freeSlot (d : Directory) (i : SlotId) : (d.freeSlot i).agents = d.agents := rfl
@[simp] theorem Directory.parked_freeSlot (d : Directory) (i : SlotId) : (d.freeSlot i).parked = d.parked := rfl
@[simp] theorem Directory.completions_freeSlot (d : Directory) (i : SlotId) : (d.freeSlot i).completions = d.completions := rfl
@[simp] theorem Directory.alerts_freeSlot (d : Directory) (i : SlotId) : (d.freeSlot i).alerts = d.alerts := rfl
@[simp] theorem Directory.choices_freeSlot (d : Directory) (i : SlotId) : (d.freeSlot i).choices = d.choices := rfl

@[simp] theorem Directory.agents_setPins (d : Directory) (i : SlotId) (k : Agent) (n : BitVec 4) : (d.setPins i k n).agents = d.agents := rfl
@[simp] theorem Directory.parked_setPins (d : Directory) (i : SlotId) (k : Agent) (n : BitVec 4) : (d.setPins i k n).parked = d.parked := rfl
@[simp] theorem Directory.completions_setPins (d : Directory) (i : SlotId) (k : Agent) (n : BitVec 4) : (d.setPins i k n).completions = d.completions := rfl
@[simp] theorem Directory.alerts_setPins (d : Directory) (i : SlotId) (k : Agent) (n : BitVec 4) : (d.setPins i k n).alerts = d.alerts := rfl
@[simp] theorem Directory.choices_setPins (d : Directory) (i : SlotId) (k : Agent) (n : BitVec 4) : (d.setPins i k n).choices = d.choices := rfl

@[simp] theorem Directory.slots_record (d : Directory) (r : Record) : (d.record r).slots = d.slots := rfl
@[simp] theorem Directory.agents_record (d : Directory) (r : Record) : (d.record r).agents = d.agents := rfl
@[simp] theorem Directory.parked_record (d : Directory) (r : Record) : (d.record r).parked = d.parked := rfl
@[simp] theorem Directory.alerts_record (d : Directory) (r : Record) : (d.record r).alerts = d.alerts := rfl
@[simp] theorem Directory.choices_record (d : Directory) (r : Record) : (d.record r).choices = d.choices := rfl

@[simp] theorem Directory.slots_finish (d : Directory) (r : Record) : (d.finish r).slots = d.slots := rfl
@[simp] theorem Directory.agents_finish (d : Directory) (r : Record) : (d.finish r).agents = d.agents := rfl
@[simp] theorem Directory.alerts_finish (d : Directory) (r : Record) : (d.finish r).alerts = d.alerts := rfl
@[simp] theorem Directory.choices_finish (d : Directory) (r : Record) : (d.finish r).choices = d.choices := rfl

@[simp] theorem Directory.slots_park (d : Directory) (p : Parked) : (d.park p).slots = d.slots := rfl
@[simp] theorem Directory.agents_park (d : Directory) (p : Parked) : (d.park p).agents = d.agents := rfl
@[simp] theorem Directory.completions_park (d : Directory) (p : Parked) : (d.park p).completions = d.completions := rfl
@[simp] theorem Directory.alerts_park (d : Directory) (p : Parked) : (d.park p).alerts = d.alerts := rfl
@[simp] theorem Directory.choices_park (d : Directory) (p : Parked) : (d.park p).choices = d.choices := rfl

@[simp] theorem Directory.slots_modAlerts (d : Directory) (f : Alerts → Alerts) : (d.modAlerts f).slots = d.slots := rfl
@[simp] theorem Directory.agents_modAlerts (d : Directory) (f : Alerts → Alerts) : (d.modAlerts f).agents = d.agents := rfl
@[simp] theorem Directory.parked_modAlerts (d : Directory) (f : Alerts → Alerts) : (d.modAlerts f).parked = d.parked := rfl
@[simp] theorem Directory.completions_modAlerts (d : Directory) (f : Alerts → Alerts) : (d.modAlerts f).completions = d.completions := rfl
@[simp] theorem Directory.choices_modAlerts (d : Directory) (f : Alerts → Alerts) : (d.modAlerts f).choices = d.choices := rfl

@[simp] theorem Directory.agents_markNotice (d : Directory) (i : SlotId) (k : Agent) (n : NoticeStatus) : (d.markNotice i k n).agents = d.agents := rfl
@[simp] theorem Directory.parked_markNotice (d : Directory) (i : SlotId) (k : Agent) (n : NoticeStatus) : (d.markNotice i k n).parked = d.parked := rfl
@[simp] theorem Directory.completions_markNotice (d : Directory) (i : SlotId) (k : Agent) (n : NoticeStatus) : (d.markNotice i k n).completions = d.completions := rfl
@[simp] theorem Directory.alerts_markNotice (d : Directory) (i : SlotId) (k : Agent) (n : NoticeStatus) : (d.markNotice i k n).alerts = d.alerts := rfl
@[simp] theorem Directory.choices_markNotice (d : Directory) (i : SlotId) (k : Agent) (n : NoticeStatus) : (d.markNotice i k n).choices = d.choices := rfl

@[simp] theorem Directory.agents_awaitVerdict (d : Directory) (i : SlotId) (k : Agent) : (d.awaitVerdict i k).agents = d.agents := rfl
@[simp] theorem Directory.parked_awaitVerdict (d : Directory) (i : SlotId) (k : Agent) : (d.awaitVerdict i k).parked = d.parked := rfl
@[simp] theorem Directory.completions_awaitVerdict (d : Directory) (i : SlotId) (k : Agent) : (d.awaitVerdict i k).completions = d.completions := rfl
@[simp] theorem Directory.alerts_awaitVerdict (d : Directory) (i : SlotId) (k : Agent) : (d.awaitVerdict i k).alerts = d.alerts := rfl
@[simp] theorem Directory.choices_awaitVerdict (d : Directory) (i : SlotId) (k : Agent) : (d.awaitVerdict i k).choices = d.choices := rfl

@[simp] theorem Directory.agents_verdictGiven (d : Directory) (k : Agent) : (d.verdictGiven k).agents = d.agents := rfl
@[simp] theorem Directory.parked_verdictGiven (d : Directory) (k : Agent) : (d.verdictGiven k).parked = d.parked := rfl
@[simp] theorem Directory.completions_verdictGiven (d : Directory) (k : Agent) : (d.verdictGiven k).completions = d.completions := rfl
@[simp] theorem Directory.alerts_verdictGiven (d : Directory) (k : Agent) : (d.verdictGiven k).alerts = d.alerts := rfl
@[simp] theorem Directory.choices_verdictGiven (d : Directory) (k : Agent) : (d.verdictGiven k).choices = d.choices := rfl

@[simp] theorem Directory.agents_createContext (d : Directory) (i : SlotId) (c : Cause) (b : Bool) : (d.createContext i c b).agents = d.agents := rfl
@[simp] theorem Directory.parked_createContext (d : Directory) (i : SlotId) (c : Cause) (b : Bool) : (d.createContext i c b).parked = d.parked := rfl
@[simp] theorem Directory.completions_createContext (d : Directory) (i : SlotId) (c : Cause) (b : Bool) : (d.createContext i c b).completions = d.completions := rfl
@[simp] theorem Directory.alerts_createContext (d : Directory) (i : SlotId) (c : Cause) (b : Bool) : (d.createContext i c b).alerts = d.alerts := rfl
@[simp] theorem Directory.choices_createContext (d : Directory) (i : SlotId) (c : Cause) (b : Bool) : (d.createContext i c b).choices = d.choices := rfl

@[simp] theorem Directory.agents_addCause (d : Directory) (i : SlotId) (c : Cause) : (d.addCause i c).agents = d.agents := rfl
@[simp] theorem Directory.parked_addCause (d : Directory) (i : SlotId) (c : Cause) : (d.addCause i c).parked = d.parked := rfl
@[simp] theorem Directory.completions_addCause (d : Directory) (i : SlotId) (c : Cause) : (d.addCause i c).completions = d.completions := rfl
@[simp] theorem Directory.alerts_addCause (d : Directory) (i : SlotId) (c : Cause) : (d.addCause i c).alerts = d.alerts := rfl
@[simp] theorem Directory.choices_addCause (d : Directory) (i : SlotId) (c : Cause) : (d.addCause i c).choices = d.choices := rfl

@[simp] theorem Directory.agents_setForce (d : Directory) (i : SlotId) (b : Bool) : (d.setForce i b).agents = d.agents := rfl
@[simp] theorem Directory.parked_setForce (d : Directory) (i : SlotId) (b : Bool) : (d.setForce i b).parked = d.parked := rfl
@[simp] theorem Directory.completions_setForce (d : Directory) (i : SlotId) (b : Bool) : (d.setForce i b).completions = d.completions := rfl
@[simp] theorem Directory.alerts_setForce (d : Directory) (i : SlotId) (b : Bool) : (d.setForce i b).alerts = d.alerts := rfl
@[simp] theorem Directory.choices_setForce (d : Directory) (i : SlotId) (b : Bool) : (d.setForce i b).choices = d.choices := rfl

@[simp] theorem Directory.agents_unlist (d : Directory) (i : SlotId) (k : Agent) : (d.unlist i k).agents = d.agents := rfl
@[simp] theorem Directory.parked_unlist (d : Directory) (i : SlotId) (k : Agent) : (d.unlist i k).parked = d.parked := rfl
@[simp] theorem Directory.completions_unlist (d : Directory) (i : SlotId) (k : Agent) : (d.unlist i k).completions = d.completions := rfl
@[simp] theorem Directory.alerts_unlist (d : Directory) (i : SlotId) (k : Agent) : (d.unlist i k).alerts = d.alerts := rfl
@[simp] theorem Directory.choices_unlist (d : Directory) (i : SlotId) (k : Agent) : (d.unlist i k).choices = d.choices := rfl

@[simp] theorem Directory.slots_addScore (d : Directory) (k : Agent) (n : Nat) : (d.addScore k n).slots = d.slots := rfl
@[simp] theorem Directory.parked_addScore (d : Directory) (k : Agent) (n : Nat) : (d.addScore k n).parked = d.parked := rfl
@[simp] theorem Directory.completions_addScore (d : Directory) (k : Agent) (n : Nat) : (d.addScore k n).completions = d.completions := rfl
@[simp] theorem Directory.alerts_addScore (d : Directory) (k : Agent) (n : Nat) : (d.addScore k n).alerts = d.alerts := rfl
@[simp] theorem Directory.choices_addScore (d : Directory) (k : Agent) (n : Nat) : (d.addScore k n).choices = d.choices := rfl

@[simp] theorem Directory.slots_creditScore (d : Directory) (k : Agent) : (d.creditScore k).slots = d.slots := rfl
@[simp] theorem Directory.parked_creditScore (d : Directory) (k : Agent) : (d.creditScore k).parked = d.parked := rfl
@[simp] theorem Directory.completions_creditScore (d : Directory) (k : Agent) : (d.creditScore k).completions = d.completions := rfl
@[simp] theorem Directory.alerts_creditScore (d : Directory) (k : Agent) : (d.creditScore k).alerts = d.alerts := rfl
@[simp] theorem Directory.choices_creditScore (d : Directory) (k : Agent) : (d.creditScore k).choices = d.choices := rfl

@[simp] theorem Directory.slots_reply (d : Directory) (e : Entry) (x : Status) (v : Word) : (d.reply e x v).slots = d.slots := rfl
@[simp] theorem Directory.agents_reply (d : Directory) (e : Entry) (x : Status) (v : Word) : (d.reply e x v).agents = d.agents := rfl
@[simp] theorem Directory.parked_reply (d : Directory) (e : Entry) (x : Status) (v : Word) : (d.reply e x v).parked = d.parked := rfl
@[simp] theorem Directory.alerts_reply (d : Directory) (e : Entry) (x : Status) (v : Word) : (d.reply e x v).alerts = d.alerts := rfl
@[simp] theorem Directory.choices_reply (d : Directory) (e : Entry) (x : Status) (v : Word) : (d.reply e x v).choices = d.choices := rfl

@[simp] theorem Directory.agents_fillSlot (d : Directory) (i : SlotId) (w : Window) : (d.fillSlot i w).agents = d.agents := rfl
@[simp] theorem Directory.parked_fillSlot (d : Directory) (i : SlotId) (w : Window) : (d.fillSlot i w).parked = d.parked := rfl
@[simp] theorem Directory.completions_fillSlot (d : Directory) (i : SlotId) (w : Window) : (d.fillSlot i w).completions = d.completions := rfl
@[simp] theorem Directory.alerts_fillSlot (d : Directory) (i : SlotId) (w : Window) : (d.fillSlot i w).alerts = d.alerts := rfl
@[simp] theorem Directory.choices_fillSlot (d : Directory) (i : SlotId) (w : Window) : (d.fillSlot i w).choices = d.choices := rfl

@[simp] theorem Directory.agents_stage (d : Directory) (i : SlotId) (p : PendingRevision) : (d.stage i p).agents = d.agents := rfl
@[simp] theorem Directory.parked_stage (d : Directory) (i : SlotId) (p : PendingRevision) : (d.stage i p).parked = d.parked := rfl
@[simp] theorem Directory.completions_stage (d : Directory) (i : SlotId) (p : PendingRevision) : (d.stage i p).completions = d.completions := rfl
@[simp] theorem Directory.alerts_stage (d : Directory) (i : SlotId) (p : PendingRevision) : (d.stage i p).alerts = d.alerts := rfl
@[simp] theorem Directory.choices_stage (d : Directory) (i : SlotId) (p : PendingRevision) : (d.stage i p).choices = d.choices := rfl

@[simp] theorem Directory.agents_emptyForRetire (d : Directory) (i : SlotId) (t : Tag) : (d.emptyForRetire i t).agents = d.agents := rfl
@[simp] theorem Directory.parked_emptyForRetire (d : Directory) (i : SlotId) (t : Tag) : (d.emptyForRetire i t).parked = d.parked := rfl
@[simp] theorem Directory.completions_emptyForRetire (d : Directory) (i : SlotId) (t : Tag) : (d.emptyForRetire i t).completions = d.completions := rfl
@[simp] theorem Directory.alerts_emptyForRetire (d : Directory) (i : SlotId) (t : Tag) : (d.emptyForRetire i t).alerts = d.alerts := rfl
@[simp] theorem Directory.choices_emptyForRetire (d : Directory) (i : SlotId) (t : Tag) : (d.emptyForRetire i t).choices = d.choices := rfl

@[simp] theorem Directory.agents_advance (d : Directory) (n : Tick) : (d.advance n).agents = d.agents := rfl
@[simp] theorem Directory.parked_advance (d : Directory) (n : Tick) : (d.advance n).parked = d.parked := rfl
@[simp] theorem Directory.completions_advance (d : Directory) (n : Tick) : (d.advance n).completions = d.completions := rfl
@[simp] theorem Directory.alerts_advance (d : Directory) (n : Tick) : (d.advance n).alerts = d.alerts := rfl
@[simp] theorem Directory.choices_advance (d : Directory) (n : Tick) : (d.advance n).choices = d.choices := rfl

@[simp] theorem Directory.completions_record (d : Directory) (r : Record) :
    (d.record r).completions = d.completions ++ [r] := rfl

@[simp] theorem Directory.completions_finish (d : Directory) (r : Record) :
    (d.finish r).completions = d.completions ++ [r] := rfl

@[simp] theorem Directory.parked_finish (d : Directory) (r : Record) :
    (d.finish r).parked = d.parked.filter (·.tag != r.tag) := rfl

@[simp] theorem Directory.parked_park (d : Directory) (p : Parked) : (d.park p).parked = d.parked ++ [p] := rfl

@[simp] theorem Directory.alerts_modAlerts (d : Directory) (f : Alerts → Alerts) : (d.modAlerts f).alerts = f d.alerts := rfl

/-! ### Updates of the window -/

@[simp] theorem Window.fields_setHolding (w : Window) (k : Agent) (h : Holding) : (w.setHolding k h).fields = w.fields := rfl
@[simp] theorem Window.lastGrant_setHolding (w : Window) (k : Agent) (h : Holding) : (w.setHolding k h).lastGrant = w.lastGrant := rfl
@[simp] theorem Window.idle_setHolding (w : Window) (k : Agent) (h : Holding) : (w.setHolding k h).idle = w.idle := rfl
@[simp] theorem Window.pins_setHolding (w : Window) (k : Agent) (h : Holding) : (w.setHolding k h).pins = w.pins := rfl
@[simp] theorem Window.waiters_setHolding (w : Window) (k : Agent) (h : Holding) : (w.setHolding k h).waiters = w.waiters := rfl
@[simp] theorem Window.reservation_setHolding (w : Window) (k : Agent) (h : Holding) : (w.setHolding k h).reservation = w.reservation := rfl
@[simp] theorem Window.revision_setHolding (w : Window) (k : Agent) (h : Holding) : (w.setHolding k h).revision = w.revision := rfl
@[simp] theorem Window.context_setHolding (w : Window) (k : Agent) (h : Holding) : (w.setHolding k h).context = w.context := rfl
@[simp] theorem Window.watch_setHolding (w : Window) (k : Agent) (h : Holding) : (w.setHolding k h).watch = w.watch := rfl
@[simp] theorem Window.retireTag_setHolding (w : Window) (k : Agent) (h : Holding) : (w.setHolding k h).retireTag = w.retireTag := rfl

@[simp] theorem Window.fields_setPins (w : Window) (k : Agent) (n : BitVec 4) : (w.setPins k n).fields = w.fields := rfl
@[simp] theorem Window.lastGrant_setPins (w : Window) (k : Agent) (n : BitVec 4) : (w.setPins k n).lastGrant = w.lastGrant := rfl
@[simp] theorem Window.idle_setPins (w : Window) (k : Agent) (n : BitVec 4) : (w.setPins k n).idle = w.idle := rfl
@[simp] theorem Window.holdings_setPins (w : Window) (k : Agent) (n : BitVec 4) : (w.setPins k n).holdings = w.holdings := rfl
@[simp] theorem Window.waiters_setPins (w : Window) (k : Agent) (n : BitVec 4) : (w.setPins k n).waiters = w.waiters := rfl
@[simp] theorem Window.reservation_setPins (w : Window) (k : Agent) (n : BitVec 4) : (w.setPins k n).reservation = w.reservation := rfl
@[simp] theorem Window.revision_setPins (w : Window) (k : Agent) (n : BitVec 4) : (w.setPins k n).revision = w.revision := rfl
@[simp] theorem Window.context_setPins (w : Window) (k : Agent) (n : BitVec 4) : (w.setPins k n).context = w.context := rfl
@[simp] theorem Window.watch_setPins (w : Window) (k : Agent) (n : BitVec 4) : (w.setPins k n).watch = w.watch := rfl
@[simp] theorem Window.retireTag_setPins (w : Window) (k : Agent) (n : BitVec 4) : (w.setPins k n).retireTag = w.retireTag := rfl

@[simp] theorem Window.fields_modContext (w : Window) (f : RecallContext → RecallContext) : (w.modContext f).fields = w.fields := rfl
@[simp] theorem Window.lastGrant_modContext (w : Window) (f : RecallContext → RecallContext) : (w.modContext f).lastGrant = w.lastGrant := rfl
@[simp] theorem Window.idle_modContext (w : Window) (f : RecallContext → RecallContext) : (w.modContext f).idle = w.idle := rfl
@[simp] theorem Window.holdings_modContext (w : Window) (f : RecallContext → RecallContext) : (w.modContext f).holdings = w.holdings := rfl
@[simp] theorem Window.pins_modContext (w : Window) (f : RecallContext → RecallContext) : (w.modContext f).pins = w.pins := rfl
@[simp] theorem Window.waiters_modContext (w : Window) (f : RecallContext → RecallContext) : (w.modContext f).waiters = w.waiters := rfl
@[simp] theorem Window.reservation_modContext (w : Window) (f : RecallContext → RecallContext) : (w.modContext f).reservation = w.reservation := rfl
@[simp] theorem Window.revision_modContext (w : Window) (f : RecallContext → RecallContext) : (w.modContext f).revision = w.revision := rfl
@[simp] theorem Window.watch_modContext (w : Window) (f : RecallContext → RecallContext) : (w.modContext f).watch = w.watch := rfl
@[simp] theorem Window.retireTag_modContext (w : Window) (f : RecallContext → RecallContext) : (w.modContext f).retireTag = w.retireTag := rfl

@[simp] theorem Window.fields_unlist (w : Window) (k : Agent) : (w.unlist k).fields = w.fields := rfl
@[simp] theorem Window.lastGrant_unlist (w : Window) (k : Agent) : (w.unlist k).lastGrant = w.lastGrant := rfl
@[simp] theorem Window.idle_unlist (w : Window) (k : Agent) : (w.unlist k).idle = w.idle := rfl
@[simp] theorem Window.holdings_unlist (w : Window) (k : Agent) : (w.unlist k).holdings = w.holdings := rfl
@[simp] theorem Window.pins_unlist (w : Window) (k : Agent) : (w.unlist k).pins = w.pins := rfl
@[simp] theorem Window.reservation_unlist (w : Window) (k : Agent) : (w.unlist k).reservation = w.reservation := rfl
@[simp] theorem Window.revision_unlist (w : Window) (k : Agent) : (w.unlist k).revision = w.revision := rfl
@[simp] theorem Window.context_unlist (w : Window) (k : Agent) : (w.unlist k).context = w.context := rfl
@[simp] theorem Window.watch_unlist (w : Window) (k : Agent) : (w.unlist k).watch = w.watch := rfl
@[simp] theorem Window.retireTag_unlist (w : Window) (k : Agent) : (w.unlist k).retireTag = w.retireTag := rfl

@[simp] theorem Window.fields_unreserve (w : Window) (k : Agent) : (w.unreserve k).fields = w.fields := rfl
@[simp] theorem Window.lastGrant_unreserve (w : Window) (k : Agent) : (w.unreserve k).lastGrant = w.lastGrant := rfl
@[simp] theorem Window.idle_unreserve (w : Window) (k : Agent) : (w.unreserve k).idle = w.idle := rfl
@[simp] theorem Window.holdings_unreserve (w : Window) (k : Agent) : (w.unreserve k).holdings = w.holdings := rfl
@[simp] theorem Window.pins_unreserve (w : Window) (k : Agent) : (w.unreserve k).pins = w.pins := rfl
@[simp] theorem Window.waiters_unreserve (w : Window) (k : Agent) : (w.unreserve k).waiters = w.waiters := rfl
@[simp] theorem Window.revision_unreserve (w : Window) (k : Agent) : (w.unreserve k).revision = w.revision := rfl
@[simp] theorem Window.context_unreserve (w : Window) (k : Agent) : (w.unreserve k).context = w.context := rfl
@[simp] theorem Window.watch_unreserve (w : Window) (k : Agent) : (w.unreserve k).watch = w.watch := rfl
@[simp] theorem Window.retireTag_unreserve (w : Window) (k : Agent) : (w.unreserve k).retireTag = w.retireTag := rfl

@[simp] theorem Window.fields_armIdle (w : Window) (t : Tick) : (w.armIdle t).fields = w.fields := rfl
@[simp] theorem Window.lastGrant_armIdle (w : Window) (t : Tick) : (w.armIdle t).lastGrant = w.lastGrant := rfl
@[simp] theorem Window.holdings_armIdle (w : Window) (t : Tick) : (w.armIdle t).holdings = w.holdings := rfl
@[simp] theorem Window.pins_armIdle (w : Window) (t : Tick) : (w.armIdle t).pins = w.pins := rfl
@[simp] theorem Window.waiters_armIdle (w : Window) (t : Tick) : (w.armIdle t).waiters = w.waiters := rfl
@[simp] theorem Window.reservation_armIdle (w : Window) (t : Tick) : (w.armIdle t).reservation = w.reservation := rfl
@[simp] theorem Window.revision_armIdle (w : Window) (t : Tick) : (w.armIdle t).revision = w.revision := rfl
@[simp] theorem Window.context_armIdle (w : Window) (t : Tick) : (w.armIdle t).context = w.context := rfl
@[simp] theorem Window.watch_armIdle (w : Window) (t : Tick) : (w.armIdle t).watch = w.watch := rfl
@[simp] theorem Window.retireTag_armIdle (w : Window) (t : Tick) : (w.armIdle t).retireTag = w.retireTag := rfl

@[simp] theorem Window.fields_granted (w : Window) (t : Tick) : (w.granted t).fields = w.fields := rfl
@[simp] theorem Window.holdings_granted (w : Window) (t : Tick) : (w.granted t).holdings = w.holdings := rfl
@[simp] theorem Window.pins_granted (w : Window) (t : Tick) : (w.granted t).pins = w.pins := rfl
@[simp] theorem Window.waiters_granted (w : Window) (t : Tick) : (w.granted t).waiters = w.waiters := rfl
@[simp] theorem Window.reservation_granted (w : Window) (t : Tick) : (w.granted t).reservation = w.reservation := rfl
@[simp] theorem Window.revision_granted (w : Window) (t : Tick) : (w.granted t).revision = w.revision := rfl
@[simp] theorem Window.context_granted (w : Window) (t : Tick) : (w.granted t).context = w.context := rfl
@[simp] theorem Window.watch_granted (w : Window) (t : Tick) : (w.granted t).watch = w.watch := rfl
@[simp] theorem Window.retireTag_granted (w : Window) (t : Tick) : (w.granted t).retireTag = w.retireTag := rfl

@[simp] theorem Window.lastGrant_granted (w : Window) (t : Tick) : (w.granted t).lastGrant = t := rfl

@[simp] theorem Window.context_modContext (w : Window) (f : RecallContext → RecallContext) :
    (w.modContext f).context = w.context.map f := rfl

/-! ### Updates of the machine -/

@[simp] theorem State.directory_setParam (s : State) (n : Fin 8) (v : Word) : (s.setParam n v).directory = s.directory := rfl
@[simp] theorem State.ports_setParam (s : State) (n : Fin 8) (v : Word) : (s.setParam n v).ports = s.ports := rfl
@[simp] theorem State.lanes_setParam (s : State) (n : Fin 8) (v : Word) : (s.setParam n v).lanes = s.lanes := rfl
@[simp] theorem State.pointer_setParam (s : State) (n : Fin 8) (v : Word) : (s.setParam n v).pointer = s.pointer := rfl
@[simp] theorem State.clock_setParam (s : State) (n : Fin 8) (v : Word) : (s.setParam n v).clock = s.clock := rfl
@[simp] theorem State.resolution_setParam (s : State) (n : Fin 8) (v : Word) : (s.setParam n v).resolution = s.resolution := rfl
@[simp] theorem State.commandQueue_setParam (s : State) (n : Fin 8) (v : Word) : (s.setParam n v).commandQueue = s.commandQueue := rfl
@[simp] theorem State.enables_setParam (s : State) (n : Fin 8) (v : Word) : (s.setParam n v).enables = s.enables := rfl
@[simp] theorem State.pending_setParam (s : State) (n : Fin 8) (v : Word) : (s.setParam n v).pending = s.pending := rfl

@[simp] theorem State.ports_popCompletion (s : State) : (s.popCompletion).ports = s.ports := rfl
@[simp] theorem State.lanes_popCompletion (s : State) : (s.popCompletion).lanes = s.lanes := rfl
@[simp] theorem State.pointer_popCompletion (s : State) : (s.popCompletion).pointer = s.pointer := rfl
@[simp] theorem State.clock_popCompletion (s : State) : (s.popCompletion).clock = s.clock := rfl
@[simp] theorem State.resolution_popCompletion (s : State) : (s.popCompletion).resolution = s.resolution := rfl
@[simp] theorem State.params_popCompletion (s : State) : (s.popCompletion).params = s.params := rfl
@[simp] theorem State.commandQueue_popCompletion (s : State) : (s.popCompletion).commandQueue = s.commandQueue := rfl
@[simp] theorem State.enables_popCompletion (s : State) : (s.popCompletion).enables = s.enables := rfl
@[simp] theorem State.pending_popCompletion (s : State) : (s.popCompletion).pending = s.pending := rfl

@[simp] theorem State.directory_setResolution (s : State) (r : Resolution) : (s.setResolution r).directory = s.directory := rfl
@[simp] theorem State.ports_setResolution (s : State) (r : Resolution) : (s.setResolution r).ports = s.ports := rfl
@[simp] theorem State.lanes_setResolution (s : State) (r : Resolution) : (s.setResolution r).lanes = s.lanes := rfl
@[simp] theorem State.pointer_setResolution (s : State) (r : Resolution) : (s.setResolution r).pointer = s.pointer := rfl
@[simp] theorem State.clock_setResolution (s : State) (r : Resolution) : (s.setResolution r).clock = s.clock := rfl
@[simp] theorem State.params_setResolution (s : State) (r : Resolution) : (s.setResolution r).params = s.params := rfl
@[simp] theorem State.commandQueue_setResolution (s : State) (r : Resolution) : (s.setResolution r).commandQueue = s.commandQueue := rfl
@[simp] theorem State.enables_setResolution (s : State) (r : Resolution) : (s.setResolution r).enables = s.enables := rfl
@[simp] theorem State.pending_setResolution (s : State) (r : Resolution) : (s.setResolution r).pending = s.pending := rfl

@[simp] theorem State.directory_setEnables (s : State) (v : Word) : (s.setEnables v).directory = s.directory := rfl
@[simp] theorem State.ports_setEnables (s : State) (v : Word) : (s.setEnables v).ports = s.ports := rfl
@[simp] theorem State.lanes_setEnables (s : State) (v : Word) : (s.setEnables v).lanes = s.lanes := rfl
@[simp] theorem State.pointer_setEnables (s : State) (v : Word) : (s.setEnables v).pointer = s.pointer := rfl
@[simp] theorem State.clock_setEnables (s : State) (v : Word) : (s.setEnables v).clock = s.clock := rfl
@[simp] theorem State.resolution_setEnables (s : State) (v : Word) : (s.setEnables v).resolution = s.resolution := rfl
@[simp] theorem State.params_setEnables (s : State) (v : Word) : (s.setEnables v).params = s.params := rfl
@[simp] theorem State.commandQueue_setEnables (s : State) (v : Word) : (s.setEnables v).commandQueue = s.commandQueue := rfl
@[simp] theorem State.pending_setEnables (s : State) (v : Word) : (s.setEnables v).pending = s.pending := rfl

@[simp] theorem State.ports_clearAlertStatus (s : State) (v : Word) : (s.clearAlertStatus v).ports = s.ports := rfl
@[simp] theorem State.lanes_clearAlertStatus (s : State) (v : Word) : (s.clearAlertStatus v).lanes = s.lanes := rfl
@[simp] theorem State.pointer_clearAlertStatus (s : State) (v : Word) : (s.clearAlertStatus v).pointer = s.pointer := rfl
@[simp] theorem State.clock_clearAlertStatus (s : State) (v : Word) : (s.clearAlertStatus v).clock = s.clock := rfl
@[simp] theorem State.resolution_clearAlertStatus (s : State) (v : Word) : (s.clearAlertStatus v).resolution = s.resolution := rfl
@[simp] theorem State.params_clearAlertStatus (s : State) (v : Word) : (s.clearAlertStatus v).params = s.params := rfl
@[simp] theorem State.commandQueue_clearAlertStatus (s : State) (v : Word) : (s.clearAlertStatus v).commandQueue = s.commandQueue := rfl
@[simp] theorem State.enables_clearAlertStatus (s : State) (v : Word) : (s.clearAlertStatus v).enables = s.enables := rfl
@[simp] theorem State.pending_clearAlertStatus (s : State) (v : Word) : (s.clearAlertStatus v).pending = s.pending := rfl

@[simp] theorem State.ports_clearAlertAgents (s : State) (v : Word) : (s.clearAlertAgents v).ports = s.ports := rfl
@[simp] theorem State.lanes_clearAlertAgents (s : State) (v : Word) : (s.clearAlertAgents v).lanes = s.lanes := rfl
@[simp] theorem State.pointer_clearAlertAgents (s : State) (v : Word) : (s.clearAlertAgents v).pointer = s.pointer := rfl
@[simp] theorem State.clock_clearAlertAgents (s : State) (v : Word) : (s.clearAlertAgents v).clock = s.clock := rfl
@[simp] theorem State.resolution_clearAlertAgents (s : State) (v : Word) : (s.clearAlertAgents v).resolution = s.resolution := rfl
@[simp] theorem State.params_clearAlertAgents (s : State) (v : Word) : (s.clearAlertAgents v).params = s.params := rfl
@[simp] theorem State.commandQueue_clearAlertAgents (s : State) (v : Word) : (s.clearAlertAgents v).commandQueue = s.commandQueue := rfl
@[simp] theorem State.enables_clearAlertAgents (s : State) (v : Word) : (s.clearAlertAgents v).enables = s.enables := rfl
@[simp] theorem State.pending_clearAlertAgents (s : State) (v : Word) : (s.clearAlertAgents v).pending = s.pending := rfl

@[simp] theorem State.ports_directoryReset (s : State) : (s.directoryReset).ports = s.ports := rfl
@[simp] theorem State.lanes_directoryReset (s : State) : (s.directoryReset).lanes = s.lanes := rfl
@[simp] theorem State.resolution_directoryReset (s : State) : (s.directoryReset).resolution = s.resolution := rfl
@[simp] theorem State.enables_directoryReset (s : State) : (s.directoryReset).enables = s.enables := rfl
@[simp] theorem State.pending_directoryReset (s : State) : (s.directoryReset).pending = s.pending := rfl

end Sys2Proof.Machine
end

