-- ==== Sys2Proof/Laws/Tables.lean ====
section
/-! SUPPORT. Reading a table entry after a write, and the levels. -/

namespace Sys2Proof.Machine

@[simp] theorem look_put {α : Type} {n : Nat} (v : Vector α n) (i j : Fin n) (x : α) :
    look (put v i x) j = if j = i then x else look v j := by
  simp only [look, put, Vector.get_eq_getElem, Vector.getElem_set]
  by_cases h : j = i
  · subst h; simp
  · have h' : i.val ≠ j.val := fun e => h (Fin.ext e.symm)
    simp [h, h']

theorem look_put_same {α : Type} {n : Nat} (v : Vector α n) (i : Fin n) (x : α) : look (put v i x) i = x := by simp

theorem look_put_other {α : Type} {n : Nat} (v : Vector α n) {i j : Fin n} (x : α) (h : j ≠ i) :
    look (put v i x) j = look v j := by simp [h]

@[simp] theorem look_replicate {α : Type} {n : Nat} (x : α) (i : Fin n) : look (Vector.replicate n x) i = x := by
  simp [look, Vector.get_eq_getElem]

@[simp] theorem look_map {α β : Type} {n : Nat} (f : α → β) (v : Vector α n) (i : Fin n) :
    look (v.map f) i = f (look v i) := by
  simp [look, Vector.get_eq_getElem]

@[simp] theorem look_ofFn {α : Type} {n : Nat} (f : Fin n → α) (i : Fin n) : look (Vector.ofFn f) i = f i := by
  simp [look, Vector.get_eq_getElem]

theorem table_ext {α : Type} {n : Nat} {u v : Vector α n} (h : ∀ i, look u i = look v i) : u = v := by
  ext i hi
  have := h ⟨i, hi⟩
  simpa [look, Vector.get_eq_getElem] using this

@[simp] theorem put_look {α : Type} {n : Nat} (v : Vector α n) (i : Fin n) : put v i (look v i) = v := by
  apply table_ext
  intro j
  by_cases h : j = i <;> simp [h]

/-- A holding is never above the level it was lowered to. -/
theorem lowered_not_above (h : Holding) (l : Level) : (h.lowered l).above l = false := by
  cases h <;> cases l <;> decide

/-- Lowering never raises. -/
theorem rank_lowered_le (h : Holding) (l : Level) : (h.lowered l).rank ≤ h.rank := by
  cases h <;> cases l <;> decide

theorem above_of_lowered_none {h : Holding} {l : Level} (e : h.lowered l = .none) : h = .none ∨ l = .none := by
  cases h <;> cases l <;> simp_all [Holding.lowered, Holding.above, Level.holding, Holding.rank]

theorem held_eq_false {h : Holding} : h.held = false ↔ h = .none := by cases h <;> decide

theorem held_eq_true {h : Holding} : h.held = true ↔ h ≠ .none := by cases h <;> decide

/-- A merged target is the level named or the one already there (R99). -/
theorem strengthen_eq (p : Option Level) (l : Level) : strengthen p l = l ∨ some (strengthen p l) = p := by
  cases p with
  | none => exact .inl rfl
  | some x => cases x <;> simp [strengthen]

end Sys2Proof.Machine
end

