-- ==== Sys2Proof/Laws/Records.lean ====
section
/-! SUPPORT. Reading a window, an agent record or a context after an update: what each named update changes, said once. -/

namespace Sys2Proof.Machine

/-! ### Windows -/

@[simp] theorem window_modWindow (d : Directory) (i j : SlotId) (f : Window → Window) :
    (d.modWindow i f).window j = if j = i then (d.window j).map f else d.window j := by
  by_cases h : j = i
  · subst h; simp [Directory.window, Directory.modWindow]
  · simp [Directory.window, Directory.modWindow, h]

@[simp] theorem generation_modWindow (d : Directory) (i j : SlotId) (f : Window → Window) :
    (look (d.modWindow i f).slots j).generation = (look d.slots j).generation := by
  by_cases h : j = i
  · subst h; simp [Directory.modWindow]
  · simp [Directory.modWindow, h]

@[simp] theorem handle_modWindow (d : Directory) (i j : SlotId) (f : Window → Window) :
    (d.modWindow i f).handle j = d.handle j := by simp [Directory.handle]

@[simp] theorem window_modAgent (d : Directory) (k : Agent) (f : AgentRecord → AgentRecord) (j : SlotId) :
    (d.modAgent k f).window j = d.window j := rfl

@[simp] theorem window_record (d : Directory) (r : Record) (j : SlotId) : (d.record r).window j = d.window j := rfl

@[simp] theorem window_finish (d : Directory) (r : Record) (j : SlotId) : (d.finish r).window j = d.window j := rfl

@[simp] theorem window_park (d : Directory) (p : Parked) (j : SlotId) : (d.park p).window j = d.window j := rfl

@[simp] theorem window_modAlerts (d : Directory) (f : Alerts → Alerts) (j : SlotId) :
    (d.modAlerts f).window j = d.window j := rfl

@[simp] theorem window_modContext (d : Directory) (i j : SlotId) (f : RecallContext → RecallContext) :
    (d.modContext i f).window j = if j = i then (d.window j).map (·.modContext f) else d.window j :=
  window_modWindow d i j _

@[simp] theorem window_setPins (d : Directory) (i j : SlotId) (k : Agent) (n : BitVec 4) :
    (d.setPins i k n).window j = if j = i then (d.window j).map (·.setPins k n) else d.window j :=
  window_modWindow d i j _

@[simp] theorem window_setHolding (d : Directory) (i j : SlotId) (k : Agent) (h : Holding) :
    (d.setHolding i k h).window j = if j = i then (d.window j).map (·.setHolding k h) else d.window j := by
  unfold Directory.setHolding
  split
  · next e =>
    by_cases hj : j = i
    · subst hj; simp [e]
    · simp [hj]
  · simp

@[simp] theorem window_freeSlot (d : Directory) (i j : SlotId) :
    (d.freeSlot i).window j = if j = i then none else d.window j := by
  by_cases h : j = i
  · subst h; simp [Directory.window, Directory.freeSlot]
  · simp [Directory.window, Directory.freeSlot, h]

@[simp] theorem window_fillSlot (d : Directory) (i j : SlotId) (w : Window) :
    (d.fillSlot i w).window j = if j = i then some w else d.window j := by
  by_cases h : j = i
  · subst h; simp [Directory.window, Directory.fillSlot]
  · simp [Directory.window, Directory.fillSlot, h]

@[simp] theorem window_advance (d : Directory) (t : Tick) (j : SlotId) :
    (d.advance t).window j = (d.window j).map (·.advance t) := by
  simp [Directory.window, Directory.advance]

@[simp] theorem window_verdictGiven (d : Directory) (k : Agent) (j : SlotId) :
    (d.verdictGiven k).window j = (d.window j).map (·.modContext (·.markVerdict k false)) := by
  simp [Directory.window, Directory.verdictGiven]

/-- An update of a window that stays as it was changes nothing. -/
theorem modWindow_eq_self {d : Directory} {i : SlotId} {f : Window → Window}
    (h : (d.window i).map f = d.window i) : d.modWindow i f = d := by
  have e : put d.slots i { look d.slots i with window := (look d.slots i).window.map f } = d.slots := by
    have h' : (look d.slots i).window.map f = (look d.slots i).window := h
    rw [h']
    exact put_look _ _
  unfold Directory.modWindow
  simp only [e]

/-- Two tables with the same generations and windows are the same. -/
theorem slots_ext {d d' : Directory} (hg : ∀ i, (look d.slots i).generation = (look d'.slots i).generation)
    (hw : ∀ i, d.window i = d'.window i) : d.slots = d'.slots := by
  apply table_ext
  intro i
  have h1 := hg i
  have h2 := hw i
  unfold Directory.window at h2
  cases h : look d.slots i
  cases h' : look d'.slots i
  simp_all

/-! ### Agent records -/

@[simp] theorem agent_modAgent (d : Directory) (k j : Agent) (f : AgentRecord → AgentRecord) :
    (d.modAgent k f).agent j = if j = k then f (d.agent j) else d.agent j := by
  by_cases h : j = k
  · subst h; simp [Directory.agent, Directory.modAgent]
  · simp [Directory.agent, Directory.modAgent, h]

@[simp] theorem agent_modWindow (d : Directory) (i : SlotId) (f : Window → Window) (j : Agent) :
    (d.modWindow i f).agent j = d.agent j := rfl

@[simp] theorem agent_modContext (d : Directory) (i : SlotId) (f : RecallContext → RecallContext) (j : Agent) :
    (d.modContext i f).agent j = d.agent j := rfl

@[simp] theorem agent_setPins (d : Directory) (i : SlotId) (k : Agent) (n : BitVec 4) (j : Agent) :
    (d.setPins i k n).agent j = d.agent j := rfl

@[simp] theorem agent_freeSlot (d : Directory) (i : SlotId) (j : Agent) : (d.freeSlot i).agent j = d.agent j := rfl

@[simp] theorem agent_markNotice (d : Directory) (i : SlotId) (k : Agent) (n : NoticeStatus) (j : Agent) :
    (d.markNotice i k n).agent j = d.agent j := rfl

@[simp] theorem agent_record (d : Directory) (r : Record) (j : Agent) : (d.record r).agent j = d.agent j := rfl

@[simp] theorem agent_finish (d : Directory) (r : Record) (j : Agent) : (d.finish r).agent j = d.agent j := rfl

@[simp] theorem agent_park (d : Directory) (p : Parked) (j : Agent) : (d.park p).agent j = d.agent j := rfl

@[simp] theorem agent_modAlerts (d : Directory) (f : Alerts → Alerts) (j : Agent) :
    (d.modAlerts f).agent j = d.agent j := rfl

/-- A change of holding touches, of the agent records, only that agent's Holding Count (R32). -/
theorem agent_setHolding (d : Directory) (i : SlotId) (k j : Agent) (h : Holding) :
    (d.setHolding i k h).agent j = { d.agent j with holdingCount := ((d.setHolding i k h).agent j).holdingCount } := by
  unfold Directory.setHolding
  split
  · rfl
  · by_cases e : j = k
    · subst e; simp
    · simp [e]

/-! ### Holdings and pins of a window -/

@[simp] theorem holding_setHolding (w : Window) (k j : Agent) (h : Holding) :
    (w.setHolding k h).holding j = if j = k then h else w.holding j := by
  simp [Window.holding, Window.setHolding]

@[simp] theorem holding_setPins (w : Window) (k j : Agent) (n : BitVec 4) :
    (w.setPins k n).holding j = w.holding j := rfl

@[simp] theorem pinCount_setHolding (w : Window) (k j : Agent) (h : Holding) :
    (w.setHolding k h).pinCount j = w.pinCount j := rfl

@[simp] theorem pinCount_setPins (w : Window) (k j : Agent) (n : BitVec 4) :
    (w.setPins k n).pinCount j = if j = k then n else w.pinCount j := by
  simp [Window.pinCount, Window.setPins]

@[simp] theorem holding_modContext (w : Window) (f : RecallContext → RecallContext) (j : Agent) :
    (w.modContext f).holding j = w.holding j := rfl

@[simp] theorem pinCount_modContext (w : Window) (f : RecallContext → RecallContext) (j : Agent) :
    (w.modContext f).pinCount j = w.pinCount j := rfl

@[simp] theorem holding_armIdle (w : Window) (t : Tick) (j : Agent) : (w.armIdle t).holding j = w.holding j := rfl

@[simp] theorem pinCount_armIdle (w : Window) (t : Tick) (j : Agent) : (w.armIdle t).pinCount j = w.pinCount j := rfl

@[simp] theorem holding_granted (w : Window) (t : Tick) (j : Agent) : (w.granted t).holding j = w.holding j := rfl

@[simp] theorem pinCount_granted (w : Window) (t : Tick) (j : Agent) : (w.granted t).pinCount j = w.pinCount j := rfl

/-! ### Contexts -/

theorem context_eq (d : Directory) (i : SlotId) : d.context i = (d.window i).bind (·.context) := rfl

@[simp] theorem context_modContext (d : Directory) (i j : SlotId) (f : RecallContext → RecallContext) :
    (d.modContext i f).context j = if j = i then (d.context j).map f else d.context j := by
  by_cases h : j = i
  · subst h; cases e : d.window j <;> simp [context_eq, e]
  · simp [context_eq, h]

@[simp] theorem members_setMember (c : RecallContext) (k j : Agent) (m : Membership) :
    look (c.setMember k m).members j = if j = k then m else look c.members j := by
  simp [RecallContext.setMember]

@[simp] theorem targets_setTarget (c : RecallContext) (k j : Agent) (t : Option Level) :
    look (c.setTarget k t).targets j = if j = k then t else look c.targets j := by
  simp [RecallContext.setTarget]

@[simp] theorem detach_setDetachAgent (c : RecallContext) (k j : Agent) (b : Bool) :
    look (c.setDetachAgent k b).detachAgents j = if j = k then b else look c.detachAgents j := by
  simp [RecallContext.setDetachAgent]

end Sys2Proof.Machine
end

