-- ==== Sys2Proof/Laws/Requests.lean ====
section
/-! SUPPORT. What the taking of a request and of a command can do, and the questions a decision asks, each said once: the match,
the conflict test, the right, the gates. -/

namespace Sys2Proof.Machine

open Sys2Proof.Safety

/-! ### Takings -/

/-- The taking of the selected request, of a kind that the command takes. -/
theorem takeRequest_of_selected {s : State} {k : Agent} {r : Request} {wants : BitVec 4 → Bool}
    {decide : Directory → Agent → Request → Directory × Verdict} (h : s.selected = some (k, r)) (g : wants r.kind = true) :
    s.takeRequest wants decide = answered s k (decide s.directory k r).2 (decide s.directory k r).1 := by
  simp [State.takeRequest, h, g, answered]

/-- A taking changes the directory, the port taken and the pointer alone, or nothing. -/
theorem takeRequest_cases (s : State) (wants : BitVec 4 → Bool)
    (decide : Directory → Agent → Request → Directory × Verdict) :
    s.takeRequest wants decide = s ∨
      ∃ k r, s.selected = some (k, r) ∧ wants r.kind = true ∧
        s.takeRequest wants decide = answered s k (decide s.directory k r).2 (decide s.directory k r).1 := by
  unfold State.takeRequest
  split
  · exact .inl rfl
  · next k r h =>
    by_cases g : wants r.kind = true
    · exact .inr ⟨k, r, h, g, by simp [g, answered]⟩
    · exact .inl (by simp [g])

/-- The kind test of a command accepts the kind code of its own kind. -/
theorem is_of_code {kind : RequestKind} {c : BitVec 4} (h : RequestKind.ofCode c = some kind) : kind.is c = true := by
  simp [RequestKind.is, h]

/-- The taking of the oldest queued entry, of a kind that the command takes, with a place free. -/
theorem takeEntry_of_oldest {s : State} {e : Entry} {rest : List Entry} {wants : BitVec 4 → Bool}
    {run : Directory → Entry → Directory} (h : Oldest s e rest) (g : wants e.kind = true) :
    s.takeEntry wants run = taken s rest (run s.directory e) := by
  obtain ⟨hq, hp⟩ := h
  have : s.directory.placeFree = true := by simpa [Directory.placeFree] using hp
  simp [State.takeEntry, hq, g, this, taken]

/-- A taking changes the Command Queue and the directory alone, or nothing. -/
theorem takeEntry_cases (s : State) (wants : BitVec 4 → Bool) (run : Directory → Entry → Directory) :
    s.takeEntry wants run = s ∨
      ∃ e rest, Oldest s e rest ∧ wants e.kind = true ∧ s.takeEntry wants run = taken s rest (run s.directory e) := by
  cases hq : s.commandQueue with
  | nil => exact .inl (by simp [State.takeEntry, hq])
  | cons e rest =>
    by_cases g : wants e.kind = true ∧ s.directory.placeFree = true
    · have ho : Oldest s e rest := ⟨hq, by simpa [Directory.placeFree] using g.2⟩
      exact .inr ⟨e, rest, ho, g.1, takeEntry_of_oldest ho g.1⟩
    · refine .inl ?_
      simp only [State.takeEntry, hq]
      split
      · next h => exact absurd (by simpa using h) g
      · rfl

/-- A command whose tag no parked command carries goes on to its own checks (R178). -/
theorem takeCommand_of_command {s : State} {kind : CommandKind} {e : Entry} {rest : List Entry}
    {run : Directory → Entry → Directory} (h : Command s kind e rest) :
    s.takeCommand kind run = taken s rest (run s.directory e) := by
  obtain ⟨ho, hk, ht⟩ := h
  have : s.directory.tagInUse e.tag = false := by simpa [Directory.tagInUse] using ht
  rw [State.takeCommand, takeEntry_of_oldest ho (by simp [hk])]
  simp [this]

/-! ### The match (R15) -/

theorem covers_iff {f : FieldSet} {a : Addr} : f.covers a = true ↔ Within f a := by
  unfold FieldSet.covers Within FieldSet.bytes
  exact decide_eq_true_iff

theorem mem_matchMask {d : Directory} {a : Addr} {i : SlotId} :
    i ∈ d.matchMask a ↔ ∃ w, d.window i = some w ∧ Within w.fields a := by
  simp [Directory.matchMask, allSlots, Option.any_eq_true, covers_iff]

/-- The one window that an address lies in is the matched window. -/
theorem matched_of_matches {d : Directory} {a : Addr} {i : SlotId} {w : Window} (h : Matches d a i w) :
    d.matched a = some (i, w) := by
  obtain ⟨hw, hin, hone⟩ := h
  unfold Directory.matched
  split
  · next e =>
    have : i ∈ d.matchMask a := mem_matchMask.2 ⟨w, hw, hin⟩
    simp [e] at this
  · next j l e =>
    have hj : j ∈ d.matchMask a := by simp [e]
    obtain ⟨v, hv, hvin⟩ := mem_matchMask.1 hj
    have : j = i := hone j v hv hvin
    subst this
    simp [hw]

theorem matched_of_unmatched {d : Directory} {a : Addr} (h : Unmatched d a) : d.matched a = none := by
  unfold Directory.matched
  split
  · rfl
  · next j l e =>
    have hj : j ∈ d.matchMask a := by simp [e]
    obtain ⟨v, hv, hvin⟩ := mem_matchMask.1 hj
    exact absurd hvin (h j v hv)

/-! ### The gates (R50, R51, R53, R54) -/

theorem denial_of_service {s : State} {k : Agent} (h : InService s k) : (s.directory.agent k).denial = none := by
  rcases h with h | h <;> simp [AgentRecord.denial, h]

theorem lengthValid_iff {r : Request} : r.lengthValid = true ↔ LengthNamed r := by
  simp [Request.lengthValid, LengthNamed]

theorem fits_iff {r : Request} {f : FieldSet} : r.fits f = true ↔ EndsWithin f r := by
  unfold Request.fits EndsWithin FieldSet.bytes
  exact decide_eq_true_iff

theorem allows_iff {x : Right} {kind : AccessKind} : x.allows kind = true ↔ RightCovers x kind := by
  cases x <;> cases kind <;> simp [Right.allows, RightCovers]

/-- The downgrade does not change the right needed (R54). -/
theorem allows_decided (x : Right) (kind : AccessKind) (b : Bool) : x.allows (kind.decided b) = x.allows kind := by
  cases x <;> cases kind <;> cases b <;> rfl

/-! ### The conflict test (R73) -/

theorem mem_conflicts {w : Window} {k : Agent} {kind : AccessKind} {j : Agent} {l : Level} :
    (j, l) ∈ w.conflicts k kind ↔ j ≠ k ∧ kind.targetOf (w.holding j) = some l := by
  simp only [Window.conflicts, List.mem_filterMap, List.mem_finRange, true_and]
  constructor
  · rintro ⟨a, ha⟩
    by_cases e : a = k
    · simp [e] at ha
    · simp only [e, if_false, Option.map_eq_some_iff] at ha
      obtain ⟨x, hx, hxe⟩ := ha
      simp only [Prod.mk.injEq] at hxe
      obtain ⟨rfl, rfl⟩ := hxe
      exact ⟨e, hx⟩
  · rintro ⟨h, ht⟩
    exact ⟨j, by simp [h, ht]⟩

theorem targetOf_eq_lowering {w : Window} {k j : Agent} {kind : AccessKind} (h : j ≠ k) :
    kind.targetOf (w.holding j) = lowering w k kind j := by
  unfold lowering
  cases kind <;> cases hh : w.holding j <;> simp [h, AccessKind.targetOf]

theorem noConflict_iff {w : Window} {k : Agent} {kind : AccessKind} :
    NoConflict w k kind ↔ ∀ j, lowering w k kind j = none := by
  constructor
  · intro h j
    by_cases e : j = k
    · simp [lowering, e]
    · cases kind <;> simp_all [NoConflict, lowering]
  · intro h
    cases kind <;> intro j hj <;> have := h j <;> simp_all [lowering]

theorem conflicting_iff {w : Window} {k : Agent} {kind : AccessKind} :
    w.conflicting k kind = true ↔ ¬ NoConflict w k kind := by
  rw [noConflict_iff]
  simp only [Window.conflicting, Bool.not_eq_true', List.isEmpty_eq_false_iff_exists_mem, Prod.exists, mem_conflicts,
    not_forall]
  constructor
  · rintro ⟨j, l, hj, hl⟩
    exact ⟨j, by rw [← targetOf_eq_lowering hj, hl]; simp⟩
  · rintro ⟨j, hj⟩
    have e : j ≠ k := by rintro rfl; simp [lowering] at hj
    rw [← targetOf_eq_lowering e] at hj
    obtain ⟨l, hl⟩ := Option.ne_none_iff_exists'.1 hj
    exact ⟨j, l, e, hl⟩

theorem conflicting_eq_false_iff {w : Window} {k : Agent} {kind : AccessKind} :
    w.conflicting k kind = false ↔ NoConflict w k kind := by
  rw [← Bool.not_eq_true, conflicting_iff, not_not]

theorem conflicts_eq_nil_iff {w : Window} {k : Agent} {kind : AccessKind} :
    w.conflicts k kind = [] ↔ NoConflict w k kind := by
  rw [← conflicting_eq_false_iff]
  simp [Window.conflicting]

/-! ### The watch (R151) -/

theorem unwatched_iff {w : Window} {k : Agent} {kind : AccessKind} :
    Unwatched w k kind ↔ ∀ x, w.watch = some x → (x.agents.getLsbD k.val && x.kinds kind) = false := by
  unfold Unwatched
  cases kind <;> simp only [Watch.kinds, Bool.and_eq_false_iff, Option.mem_def]

/-! ### Verdicts (R47) -/

theorem unmatched_eq_plain (x : Decision) (a : Addr) : Verdict.unmatched x a = plainVerdict x a := rfl

theorem answer_grant (d : Directory) (i : SlotId) (w : Window) (k : Agent) (a : Addr) :
    d.answer i w k a .grant = granted w (slotHandle d i) (w.holding k) a := by
  simp [Directory.answer, FieldSet.verdict, granted, FieldSet.translate, slotHandle, Directory.handle]

theorem answer_turned (d : Directory) (i : SlotId) (w : Window) (k : Agent) (a : Addr) (x : Decision) (h : x ≠ .grant) :
    d.answer i w k a x = turnedAway w k x := by
  simp [Directory.answer, FieldSet.verdict, turnedAway, h]

/-! ### The shapes of a next directory -/

theorem modWindow_eq_withWindow {d : Directory} {i : SlotId} {w : Window} (f : Window → Window) (h : d.window i = some w) :
    d.modWindow i f = withWindow d i (f w) := by
  have : (look d.slots i).window = some w := h
  simp [Directory.modWindow, withWindow, this]

theorem modAgent_eq_withAgent (d : Directory) (k : Agent) (f : AgentRecord → AgentRecord) :
    d.modAgent k f = withAgent d k (f (d.agent k)) := rfl

theorem put_put {α : Type} {n : Nat} (v : Vector α n) (i : Fin n) (x y : α) : put (put v i x) i y = put v i y := by
  apply table_ext
  intro j
  by_cases h : j = i <;> simp [h]

@[simp] theorem withWindow_withWindow (d : Directory) (i : SlotId) (v w : Window) :
    withWindow (withWindow d i v) i w = withWindow d i w := by
  simp [withWindow, put_put]

@[simp] theorem withAgent_withAgent (d : Directory) (k : Agent) (a b : AgentRecord) :
    withAgent (withAgent d k a) k b = withAgent d k b := by
  simp [withAgent, put_put]

theorem withAgent_withWindow (d : Directory) (i : SlotId) (k : Agent) (w : Window) (a : AgentRecord) :
    withWindow (withAgent d k a) i w = withAgent (withWindow d i w) k a := rfl

theorem withWindow_self {d : Directory} {i : SlotId} {w : Window} (h : d.window i = some w) : withWindow d i w = d := by
  have e : (look d.slots i).window = some w := h
  have : ({ look d.slots i with window := some w } : Slot) = look d.slots i := by rw [← e]
  simp [withWindow, this]

theorem withAgent_self (d : Directory) (k : Agent) : withAgent d k (d.agent k) = d := by
  simp [withAgent, Directory.agent]

@[simp] theorem window_withWindow (d : Directory) (i j : SlotId) (w : Window) :
    (withWindow d i w).window j = if j = i then some w else d.window j := by
  by_cases h : j = i <;> simp [Directory.window, withWindow, h]

@[simp] theorem agent_withWindow (d : Directory) (i : SlotId) (w : Window) (k : Agent) :
    (withWindow d i w).agent k = d.agent k := rfl

@[simp] theorem window_withAgent (d : Directory) (k : Agent) (a : AgentRecord) (j : SlotId) :
    (withAgent d k a).window j = d.window j := rfl

@[simp] theorem agent_withAgent (d : Directory) (k j : Agent) (a : AgentRecord) :
    (withAgent d k a).agent j = if j = k then a else d.agent j := by
  by_cases h : j = k <;> simp [Directory.agent, withAgent, h]

@[simp] theorem slotHandle_withWindow (d : Directory) (i j : SlotId) (w : Window) :
    slotHandle (withWindow d i w) j = slotHandle d j := by
  by_cases h : j = i
  · subst h; simp [slotHandle, withWindow]
  · simp [slotHandle, withWindow, h]

@[simp] theorem slotHandle_withAgent (d : Directory) (k : Agent) (a : AgentRecord) (j : SlotId) :
    slotHandle (withAgent d k a) j = slotHandle d j := rfl

theorem handle_eq_slotHandle (d : Directory) (i : SlotId) : d.handle i = slotHandle d i := rfl

theorem handleWord_eq (d : Directory) (i : SlotId) : d.handleWord i = (slotHandle d i).setWidth 32 := rfl

theorem armIdle_eq (w : Window) (start : Tick) : w.armIdle start = { w with idle := idleFrom w.fields.idleLimit start } := rfl

theorem granted_eq_touched (w : Window) (now : Tick) : w.granted now = touched w now := rfl

/-! ### The commands that take a request -/

theorem exec_access {s : State} {k : Agent} {r : Request} {kind : AccessKind} (h : TakenNext s k r (.access kind)) :
    exec (taking (.access kind)) s =
      .next (answered s k (s.directory.decideAccess s.clock k r kind).2 (s.directory.decideAccess s.clock k r kind).1) := by
  obtain ⟨hs, hk⟩ := h
  cases kind <;> exact congrArg _ (takeRequest_of_selected hs (is_of_code hk))

theorem exec_release {s : State} {k : Agent} {r : Request} (h : TakenNext s k r .release) :
    exec .release s =
      .next (answered s k (s.directory.decideReleaseRequest s.clock k r).2
        (s.directory.decideReleaseRequest s.clock k r).1) :=
  congrArg _ (takeRequest_of_selected h.1 (is_of_code h.2))

/-- The decision of a request of one of the other kinds, by its matched window. -/
def otherDecision (d : Directory) (now : Tick) (k : Agent) (r : Request) (kind : RequestKind) (i : SlotId) (w : Window) :
    Directory × Verdict :=
  match kind with
  | .pin => d.decidePin now k r.address i w
  | .unpin => d.decideUnpin now k r.address i w
  | .withdraw | .release | .access _ => d.decideWithdraw now k r.address i w

theorem exec_other {s : State} {k : Agent} {r : Request} {kind : RequestKind} (h : TakenNext s k r kind)
    (g : kind = .pin ∨ kind = .unpin ∨ kind = .withdraw) :
    exec (taking kind) s =
      .next (answered s k (s.directory.decideOther k r (otherDecision s.directory s.clock k r kind)).2
        (s.directory.decideOther k r (otherDecision s.directory s.clock k r kind)).1) := by
  obtain ⟨hs, hk⟩ := h
  rcases g with rfl | rfl | rfl <;> exact congrArg _ (takeRequest_of_selected hs (is_of_code hk))

theorem exec_badRequest {s : State} {k : Agent} {r : Request} (h : s.selected = some (k, r))
    (g : RequestKind.ofCode r.kind = none) :
    exec .badRequest s = .next (answered s k (s.directory.agent k).badRequestVerdict s.directory) :=
  congrArg _ (takeRequest_of_selected h (by simp [g]))

/-- An access that passes the stages up to the Match stage is decided against its window. -/
theorem decideAccess_of_matched {s : State} {k : Agent} {r : Request} {i : SlotId} {w : Window} {kind : AccessKind}
    (hs : InService s k) (hl : LengthNamed r) (hm : Matches s.directory r.address i w) :
    s.directory.decideAccess s.clock k r kind = s.directory.matchedAccess s.clock i w k r kind := by
  simp [Directory.decideAccess, denial_of_service hs, lengthValid_iff.2 hl, matched_of_matches hm]

/-- An access that passes the stages up to the Right stage, and the Detaching stage, is decided at the Window stage. -/
theorem decideAccess_of_admitted {s : State} {k : Agent} {r : Request} {i : SlotId} {w : Window} {sent : AccessKind}
    (h : Admitted s k r sent i w)
    (g : (s.directory.agent k).state = .detaching →
      ((sent.decided w.fields.cacheable).class (w.holding k)).grows = false) :
    s.directory.decideAccess s.clock k r sent =
      s.directory.windowStage s.clock i w k r.address (sent.decided w.fields.cacheable) := by
  have hd : (s.directory.detaching k && ((sent.decided w.fields.cacheable).class (w.holding k)).grows) = false := by
    cases hdet : s.directory.detaching k
    · rfl
    · simpa using g (by simpa [Directory.detaching] using hdet)
  rw [decideAccess_of_matched h.service h.length h.found, Directory.matchedAccess]
  simp [fits_iff.2 h.extent, allows_decided, allows_iff.2 h.right, hd]

/-- A request of another kind is decided against its window. -/
theorem decideOther_of_matched {s : State} {k : Agent} {r : Request} {i : SlotId} {w : Window}
    {decide : SlotId → Window → Directory × Verdict} (hs : InService s k) (hm : Matches s.directory r.address i w) :
    s.directory.decideOther k r decide = decide i w := by
  simp [Directory.decideOther, denial_of_service hs, matched_of_matches hm]

theorem ofCode_code (l : Level) : Level.ofCode l.code = some l := by cases l <;> rfl

theorem decideRelease_of_found {s : State} {k : Agent} {r : Request} {i : SlotId} {w : Window} {l : Level}
    (h : Found s k r .release i w) (g : r.level = l.code) :
    s.directory.decideReleaseRequest s.clock k r = s.directory.decideRelease s.clock k r.address l i w := by
  simp only [Directory.decideReleaseRequest, denial_of_service h.service, g, ofCode_code]
  exact decideOther_of_matched h.service h.found

theorem detaching_of_online {s : State} {k : Agent} (h : Online s k) : s.directory.detaching k = false := by
  simp only [Online] at h
  simp [Directory.detaching, h]

theorem service_of_online {s : State} {k : Agent} (h : Online s k) : InService s k := .inl h

end Sys2Proof.Machine
end

