-- ==== Sys2Proof/Laws/Grants.lean ====
section
/-! SUPPORT. What a grant does to a window and to the requester's record. -/

namespace Sys2Proof.Machine

open Sys2Proof.Safety

/-- A change of one holding, with the Holding Count that follows it (R32). -/
theorem setHolding_eq {d : Directory} {i : SlotId} {k : Agent} {h : Holding} {w : Window} (hw : d.window i = some w) :
    d.setHolding i k h =
      withAgent (withWindow d i { w with holdings := put w.holdings k h }) k
        { d.agent k with holdingCount := countAfter (d.agent k).holdingCount (w.holding k) h } := by
  unfold Directory.setHolding
  rw [hw]
  simp only
  rw [modWindow_eq_withWindow _ hw, modAgent_eq_withAgent]
  rfl

theorem countAfter_same (n : Nat) (h : Holding) : countAfter n h h = n := by cases h <;> rfl

/-- A holding set to what it is changes nothing. -/
theorem setHolding_same {d : Directory} {i : SlotId} {k : Agent} {w : Window} (hw : d.window i = some w) :
    d.setHolding i k (w.holding k) = d := by
  have e : put w.holdings k (w.holding k) = w.holdings := put_look _ _
  rw [setHolding_eq hw, e, countAfter_same]
  show withAgent (withWindow d i w) k (d.agent k) = d
  rw [withWindow_self hw]
  exact withAgent_self d k

theorem setPins_eq {d : Directory} {i : SlotId} {k : Agent} {n : BitVec 4} {w : Window} (hw : d.window i = some w) :
    d.setPins i k n = withWindow d i { w with pins := put w.pins k n } := modWindow_eq_withWindow _ hw

/-- A grant that is not the head's and keeps the holding (R63, R66). -/
theorem grantAccess_unserved {d : Directory} {now : Tick} {i : SlotId} {w : Window} {k : Agent} {a : Addr} {kind : AccessKind}
    (hw : d.window i = some w) (hh : kind.holdingAfter (w.holding k) = w.holding k) :
    d.grantAccess now i w k a kind false =
      ((withWindow d i (touched w now)).reportGrant i k kind a, granted w (slotHandle d i) (w.holding k) a) := by
  unfold Directory.grantAccess
  simp only [hh, setHolding_same hw]
  rw [modWindow_eq_withWindow _ hw]
  simp [granted_eq_touched, answer_grant]
  rfl

/-- A grant that the window's watch does not see. -/
theorem reportGrant_unwatched {d : Directory} {i : SlotId} {w : Window} {k : Agent} {kind : AccessKind} {a : Addr}
    (hw : d.window i = some w) (h : Unwatched w k kind) : d.reportGrant i k kind a = d := by
  unfold Directory.reportGrant
  rw [hw]
  simp only
  cases hx : w.watch with
  | none => rfl
  | some x =>
    have e := unwatched_iff.1 h x hx
    simp only [e]
    rfl

/-- A request of class holder access or neither keeps the holding (R63, R64, R72). -/
theorem holdingAfter_of_class {kind : AccessKind} {h : Holding}
    (g : kind.class h = .holderAccess ∨ kind.class h = .neither) : kind.holdingAfter h = h := by
  cases kind <;> cases h <;> simp_all [AccessKind.class, AccessKind.holdingAfter]

/-- A change of the window under a changed agent record. -/
theorem modWindow_withAgent {d : Directory} {i : SlotId} {k : Agent} {w : Window} {x : AgentRecord} (f : Window → Window)
    (hw : d.window i = some w) : (withAgent d k x).modWindow i f = withAgent (withWindow d i (f w)) k x :=
  modWindow_eq_withWindow (d := withAgent d k x) f hw

/-- A grant that changes the holding and is not the head's (R64, R66). -/
theorem grantAccess_raised {d : Directory} {now : Tick} {i : SlotId} {w : Window} {k : Agent} {a : Addr} {kind : AccessKind}
    (hw : d.window i = some w) (hu : Unwatched w k kind) :
    d.grantAccess now i w k a kind false =
      (withAgent
          (withWindow d i { touched w now with holdings := put w.holdings k (kind.holdingAfter (w.holding k)) }) k
          { d.agent k with
            holdingCount := countAfter (d.agent k).holdingCount (w.holding k) (kind.holdingAfter (w.holding k)) },
        granted w (slotHandle d i) (kind.holdingAfter (w.holding k)) a) := by
  have hw' : (withWindow d i { w with holdings := put w.holdings k (kind.holdingAfter (w.holding k)) }).window i =
      some { w with holdings := put w.holdings k (kind.holdingAfter (w.holding k)) } := by simp
  unfold Directory.grantAccess
  simp only [setHolding_eq hw, modWindow_withAgent _ hw', withWindow_withWindow, Bool.false_eq_true, if_false,
    window_withAgent, window_withWindow, if_true, Option.getD_some, answer_grant, slotHandle_withAgent,
    slotHandle_withWindow]
  rw [reportGrant_unwatched
    (w := { w with holdings := put w.holdings k (kind.holdingAfter (w.holding k)) }.granted now) (by simp) hu]
  simp [Window.holding, granted, granted_eq_touched, touched]

end Sys2Proof.Machine
end

