-- ==== Sys2Proof/Laws/Notices.lean ====
section
/-! SUPPORT. What placing, withdrawing and filling can do to an agent's queue and backlog and to a Notice Status (R35 to R40). -/

namespace Sys2Proof.Machine

open Sys2Proof.Safety

theorem member_of_context {d : Directory} {i : SlotId} {k : Agent} {w : Window} {c : RecallContext}
    (h : d.window i = some w) (g : w.context = some c) : d.member i k = look c.members k := by
  simp [Directory.member, Directory.context, h, g]

theorem unsent_iff {d : Directory} {i : SlotId} {k : Agent} :
    d.unsent i k = true ↔ ∃ x, d.member i k = .outstanding x ∧ x.notice = .unsent := by
  unfold Directory.unsent
  cases d.member i k <;> simp

/-- With no candidate waiting, a freed place stays free (R40). -/
theorem fillPlace_eq_self {d : Directory} {k : Agent} (h : (d.agent k).backlog = []) (g : ∀ i, d.unsent i k = false) :
    d.fillPlace k = d := by
  have hn : d.nextUnsent k = none := by
    unfold Directory.nextUnsent
    rw [List.findSome?_eq_none_iff]
    intro i _
    simp [g i]
  unfold Directory.fillPlace
  simp [AgentRecord.nextRevoked, h, hn]

/-- Marking the notice of an agent that is not Outstanding changes nothing (R103). -/
theorem markNotice_eq_self {d : Directory} {i : SlotId} {k : Agent} {n : NoticeStatus}
    (h : ∀ x, d.member i k ≠ .outstanding x) : d.markNotice i k n = d := by
  apply modWindow_eq_self
  cases hw : d.window i with
  | none => rfl
  | some w =>
    cases hc : w.context with
    | none => cases w; simp_all [Window.modContext]
    | some c =>
      have : ∀ x, look c.members k ≠ .outstanding x := by
        intro x
        rw [← member_of_context hw hc]
        exact h x
      cases w
      cases hm : look c.members k <;> simp_all [Window.modContext, RecallContext.markNotice]

theorem markNotice_of_outstanding {d : Directory} {i : SlotId} {k : Agent} {n : NoticeStatus} {w : Window}
    {c : RecallContext} {x : Wait} (hw : d.window i = some w) (hc : w.context = some c)
    (hm : look c.members k = .outstanding x) :
    d.markNotice i k n =
      withWindow d i { w with context := some { c with members := put c.members k (.outstanding { x with notice := n }) } } := by
  rw [Directory.markNotice, Directory.modContext, modWindow_eq_withWindow _ hw]
  simp [Window.modContext, hc, RecallContext.markNotice, hm, RecallContext.setMember]

end Sys2Proof.Machine
end

