-- ==== Sys2Proof/Laws/Recalls.lean ====
section
/-! SUPPORT. Placing a notice, entering the Outstanding set, and starting a recall that waits, each said once. -/

namespace Sys2Proof.Machine

open Sys2Proof.Safety

/-! ### Placing a notice (R36, R37) -/

theorem queued_eq_false {a : AgentRecord} {i : SlotId} : a.queued i = false ↔ ∀ m ∈ a.notices, m.slot ≠ i := by
  simp [AgentRecord.queued]

/-- The one notice for a slot replaced, at its place. -/
theorem replaceNotice_at {a : AgentRecord} {i : SlotId} {u v : List Notice} {m n : Notice} (h : a.notices = u ++ m :: v)
    (hu : ∀ x ∈ u, x.slot ≠ i) (hv : ∀ x ∈ v, x.slot ≠ i) (hm : m.slot = i) :
    (a.replaceNotice i n).notices = u ++ n :: v := by
  have map_other : ∀ l : List Notice, (∀ x ∈ l, x.slot ≠ i) → l.map (fun x => if x.slot = i then n else x) = l := by
    intro l hl
    refine (List.map_congr_left fun x hx => ?_).trans (List.map_id _)
    simp [hl x hx]
  simp [AgentRecord.replaceNotice, h, hm, map_other u hu, map_other v hv]

theorem find_at {i : SlotId} {u v : List Notice} {m : Notice} (hu : ∀ x ∈ u, x.slot ≠ i) (hm : m.slot = i) :
    (u ++ m :: v).find? (·.slot == i) = some m := by
  have : u.find? (·.slot == i) = none := by simpa using hu
  simp [List.find?_append, this, hm]

theorem find_none {i : SlotId} {l : List Notice} (h : ∀ x ∈ l, x.slot ≠ i) : l.find? (·.slot == i) = none := by
  simpa using h

/-- Placing a RECALL follows the four rows of R36. -/
theorem placeRecall_placed (a : AgentRecord) (i : SlotId) (l : Level) (f : NoticeFields) :
    RecallPlaced a (a.placeRecall i l f).1 i l f (a.placeRecall i l f).2 := by
  refine ⟨?_, fun h hr => ?_, fun h hr => ?_, fun u v m h hu hv hm => ?_⟩
  · unfold AgentRecord.placeRecall
    repeat' split
    all_goals rfl
  · simp [AgentRecord.placeRecall, find_none h, AgentRecord.hasRoom, Config.noticePlaces, hr, AgentRecord.enqueue]
  · simp [AgentRecord.placeRecall, find_none h, AgentRecord.hasRoom, Config.noticePlaces, hr]
  · have e : a.notices.find? (·.slot == i) = some m := by rw [h, find_at hu hm]
    refine ⟨fun hk => ?_, fun hk => ?_, fun hk => ?_⟩
    · simp [AgentRecord.placeRecall, e, hk]
    · simp [AgentRecord.placeRecall, e, hk, Level.holding, Holding.rank]
    · cases l
      · simp [AgentRecord.placeRecall, e, hk, Level.holding, Holding.rank, replaceNotice_at h hu hv hm]
      · simp [AgentRecord.placeRecall, e, hk, Level.holding, Holding.rank]

theorem mem_insertBacklog {f g : NoticeFields} {l : List NoticeFields} (h : l.Pairwise fun x y => x.slot < y.slot) :
    g ∈ insertBacklog f l ↔ g = f ∨ g ∈ l ∧ g.slot ≠ f.slot := by
  induction l with
  | nil => simp [insertBacklog]
  | cons x l ih =>
    obtain ⟨hx, hl⟩ := List.pairwise_cons.1 h
    unfold insertBacklog
    split
    · next hlt =>
      have : ∀ y ∈ x :: l, y.slot ≠ f.slot := by
        intro y hy
        rcases List.mem_cons.1 hy with rfl | hy
        · exact (ne_of_lt hlt).symm
        · exact (ne_of_lt (hlt.trans (hx y hy))).symm
      constructor
      · intro hg
        rcases List.mem_cons.1 hg with rfl | hg
        · exact .inl rfl
        · exact .inr ⟨hg, this g hg⟩
      · rintro (rfl | hg)
        · simp
        · exact List.mem_cons_of_mem _ hg.1
    · split
      · next heq =>
        have : ∀ y ∈ l, y.slot ≠ f.slot := fun y hy => by rw [heq]; exact (ne_of_lt (hx y hy)).symm
        constructor
        · intro hg
          rcases List.mem_cons.1 hg with rfl | hg
          · exact .inl rfl
          · exact .inr ⟨List.mem_cons_of_mem _ hg, this g hg⟩
        · rintro (rfl | ⟨hg, hne⟩)
          · simp
          · rcases List.mem_cons.1 hg with rfl | hg
            · exact absurd heq.symm hne
            · exact List.mem_cons_of_mem _ hg
      · next hne =>
        rw [List.mem_cons, ih hl, List.mem_cons]
        constructor
        · rintro (rfl | rfl | hg)
          · exact .inr ⟨.inl rfl, fun e => hne e.symm⟩
          · exact .inl rfl
          · exact .inr ⟨.inr hg.1, hg.2⟩
        · rintro (rfl | ⟨rfl | hg, h2⟩)
          · exact .inr (.inl rfl)
          · exact .inl rfl
          · exact .inr (.inr ⟨hg, h2⟩)

theorem insertBacklog_keyed {f : NoticeFields} {l : List NoticeFields} (h : l.Pairwise fun x y => x.slot < y.slot) :
    (insertBacklog f l).Pairwise fun x y => x.slot < y.slot := by
  induction l with
  | nil => simp [insertBacklog]
  | cons x l ih =>
    obtain ⟨hx, hl⟩ := List.pairwise_cons.1 h
    unfold insertBacklog
    split
    · next hlt =>
      refine List.pairwise_cons.2 ⟨fun y hy => ?_, h⟩
      rcases List.mem_cons.1 hy with rfl | hy
      · exact hlt
      · exact hlt.trans (hx y hy)
    · split
      · next heq => exact List.pairwise_cons.2 ⟨fun y hy => by rw [heq]; exact hx y hy, hl⟩
      · next hge hne =>
        refine List.pairwise_cons.2 ⟨fun y hy => ?_, ih hl⟩
        rcases (mem_insertBacklog hl).1 hy with rfl | hy
        · exact lt_of_le_of_ne (not_lt.1 hge) fun e => hne e.symm
        · exact hx y hy.1

/-- Placing a REVOKED follows the four cases of R37. -/
theorem placeRevoked_placed (a : AgentRecord) (i : SlotId) (f : NoticeFields) (hf : f.slot = i) :
    RevokedPlaced a (a.placeRevoked i f) i f := by
  refine ⟨?_, fun u v m h hu hv hm => ?_, fun h hr => ?_, fun h hr hb => ?_⟩
  · unfold AgentRecord.placeRevoked
    repeat' split
    all_goals rfl
  · have q : a.queued i = true := by simp [AgentRecord.queued, h, hm]
    simp only [AgentRecord.placeRevoked, q, if_true, replaceNotice_at h hu hv hm, true_and]
    rfl
  · simp [AgentRecord.placeRevoked, queued_eq_false.2 h, AgentRecord.hasRoom, Config.noticePlaces, hr, AgentRecord.enqueue]
  · have e : a.placeRevoked i f = { a with backlog := insertBacklog f a.backlog } := by
      simp [AgentRecord.placeRevoked, queued_eq_false.2 h, AgentRecord.hasRoom, Config.noticePlaces, hr]
    rw [e]
    exact ⟨rfl, insertBacklog_keyed hb, fun g => by subst hf; exact mem_insertBacklog hb⟩

/-! ### Entering the Outstanding set (R99) -/

/-- A change of the recall context of a slot that has one. -/
theorem modContext_eq {d : Directory} {i : SlotId} {w : Window} {c : RecallContext} (f : RecallContext → RecallContext)
    (hw : d.window i = some w) (hc : w.context = some c) :
    d.modContext i f = withWindow d i { w with context := some (f c) } := by
  rw [Directory.modContext, modWindow_eq_withWindow _ hw]
  simp [Window.modContext, hc]

/-- An agent enters the Outstanding set: its fresh wait stands in the context and its RECALL is placed. -/
theorem enterOutstanding_eq {d : Directory} {now : Tick} {i : SlotId} {k : Agent} {w : Window} {c : RecallContext} {l : Level}
    (hw : d.window i = some w) (hc : w.context = some c) (ht : look c.targets k = some l) :
    d.enterOutstanding now i k =
      withAgent
        (withWindow d i
          { w with
            context := some
              (c.setMember k
                (.outstanding (freshWait (d.agent k) now ((d.agent k).placeRecall i l (d.noticeFields i w)).2))) }) k
        ((d.agent k).placeRecall i l (d.noticeFields i w)).1 := by
  unfold Directory.enterOutstanding
  simp only [modContext_eq _ hw hc]
  unfold Directory.placeRecall Directory.recallOf
  simp only [window_withWindow, if_true, Option.bind_some, RecallContext.setMember, ht, Option.map_some, agent_withWindow]
  unfold Directory.markNotice
  have hn : ∀ m, (withWindow d i { w with context := some { c with members := m } }).noticeFields i
      { w with context := some { c with members := m } } = d.noticeFields i w := by
    intro m
    simp [Directory.noticeFields, handle_eq_slotHandle]
  rw [hn, modAgent_eq_withAgent,
    modContext_eq (w := { w with context := some (c.setMember k (.outstanding _)) }) (c := c.setMember k (.outstanding _)) _
      (by simp [RecallContext.setMember]; rfl) rfl]
  simp [withAgent_withWindow, RecallContext.markNotice, RecallContext.setMember, put_put, freshWait, timer]

/-! ### A recall that waits (R98, R99) -/

/-- A target named for an agent that is in neither set and holds more: it enters a set. -/
theorem mergeTarget_enters {d : Directory} {now : Tick} {i : SlotId} {k : Agent} {w : Window} {c : RecallContext} {l : Level}
    (hw : d.window i = some w) (hc : w.context = some c) (ht : look c.targets k = none) (hm : look c.members k = .neither)
    (ha : (w.holding k).above l = true) (hp : w.pinCount k = 0 ∨ c.force = false) :
    ∃ m, Enters d (d.mergeTarget now false i k l) now i w k l m ∧
      d.mergeTarget now false i k l =
        withAgent
          (withWindow d i { w with context := some { c with targets := put c.targets k (some l), members := put c.members k m } })
          k ((d.mergeTarget now false i k l).agent k) := by
  have hw' : (withWindow d i { w with context := some { c with targets := put c.targets k (some l) } }).window i =
      some { w with context := some { c with targets := put c.targets k (some l) } } := by simp
  unfold Directory.mergeTarget
  rw [hw]
  simp only [hc, ht, strengthen, hm, ha, if_true, modContext_eq _ hw hc, RecallContext.setTarget]
  by_cases h0 : w.pinCount k = 0
  · simp only [h0, if_true]
    rw [enterOutstanding_eq hw' rfl (look_put_same _ _ _)]
    have hn : (withWindow d i { w with context := some { c with targets := put c.targets k (some l) } }).noticeFields i
        { w with context := some { c with targets := put c.targets k (some l) } } = d.noticeFields i w := by
      simp [Directory.noticeFields, handle_eq_slotHandle]
    rw [hn, agent_withWindow]
    refine ⟨.outstanding (freshWait (d.agent k) now ((d.agent k).placeRecall i l (d.noticeFields i w)).2), ?_, ?_⟩
    · unfold Enters
      rw [if_pos h0]
      refine ⟨_, rfl, ?_⟩
      simpa [Directory.noticeFields, handle_eq_slotHandle] using placeRecall_placed (d.agent k) i l (d.noticeFields i w)
    · simp [RecallContext.setMember]
  · have hf : c.force = false := hp.resolve_left h0
    have hg : ¬ (c.force || false) = true := by simp [hf]
    rw [if_neg h0, if_neg hg, modContext_eq _ hw' rfl]
    refine ⟨.blocked, ?_, ?_⟩
    · unfold Enters
      rw [if_neg h0]
      simp
    · rw [withWindow_withWindow]
      exact (withAgent_self _ k).symm

/-- What is left of a recall's start after some targets have been merged: `todo` are still to come. -/
structure Started (d₀ d : Directory) (now : Tick) (i : SlotId) (w : Window) (opened : RecallContext)
    (todo : List (Agent × Level)) (targets : Agent → Option Level) (c : RecallContext) : Prop where
  window : d.window i = some { w with reservation := none, context := some c }
  parts : { c with targets := opened.targets, members := opened.members } = opened
  waiting : ∀ j l, (j, l) ∈ todo → targets j = some l ∧ look c.targets j = none ∧ look c.members j = .neither ∧
    d.agent j = d₀.agent j
  finished : ∀ j, (∀ l, (j, l) ∉ todo) → look c.targets j = targets j ∧
    match targets j with
    | none => look c.members j = .neither ∧ d.agent j = d₀.agent j
    | some l => Enters d₀ d now i w j l (look c.members j)
  generation : (look d.slots i).generation = (look d₀.slots i).generation
  others : ∀ j : SlotId, j ≠ i → look d.slots j = look d₀.slots j
  results : d.completions = d₀.completions ∧ d.alerts = d₀.alerts ∧ d.parked = d₀.parked ∧ d.choices = d₀.choices

/-- `Enters` looks at the agent's record, the window's pins and fields, and the handle alone. -/
theorem enters_congr {d d' e e' : Directory} {now : Tick} {i : SlotId} {v w : Window} {j : Agent} {l : Level} {m : Membership}
    (h : Enters d d' now i v j l m) (hd : e.agent j = d.agent j) (hd' : e'.agent j = d'.agent j)
    (hp : w.pins = v.pins) (hf : w.fields = v.fields) (hh : slotHandle e i = slotHandle d i) : Enters e e' now i w j l m := by
  unfold Enters Window.pinCount at *
  rw [hd, hd', hp, hf, hh]
  exact h

/-- Merging the targets that are left finishes the start. -/
theorem Started.merge {d₀ : Directory} {now : Tick} {i : SlotId} {w : Window} {opened : RecallContext}
    {targets : Agent → Option Level} :
    ∀ (todo : List (Agent × Level)) (d : Directory) (c : RecallContext), (todo.map (·.1)).Nodup →
      (∀ j l, (j, l) ∈ todo → (w.holding j).above l = true ∧ (w.pinCount j = 0 ∨ opened.force = false)) →
      Started d₀ d now i w opened todo targets c →
      ∃ c', Started d₀ (d.mergeTargets now i todo) now i w opened [] targets c'
  | [], d, c, _, _, h => ⟨c, h⟩
  | (k, l) :: todo, d, c, hn, hs, h => by
    obtain ⟨hk, hn⟩ := List.nodup_cons.1 hn
    obtain ⟨htk, hct, hcm, hag⟩ := h.waiting k l (by simp)
    obtain ⟨ha, hp⟩ := hs k l (by simp)
    have hforce : c.force = opened.force := by rw [← h.parts]
    obtain ⟨m, hm, he⟩ := mergeTarget_enters (now := now) h.window rfl hct hcm ha (by rw [hforce]; exact hp)
    have hnot : ∀ l', (k, l') ∉ todo := fun l' hl' => hk (List.mem_map.2 ⟨_, hl', rfl⟩)
    have hgen : slotHandle d₀ i = slotHandle d i := by simp [slotHandle, h.generation]
    refine Started.merge todo (d.mergeTarget now false i k l)
      { c with targets := put c.targets k (some l), members := put c.members k m } hn
      (fun j x hx => hs j x (List.mem_cons_of_mem _ hx)) ?_
    have hother : ∀ j, j ≠ k → (d.mergeTarget now false i k l).agent j = d.agent j := by
      intro j hj
      rw [he]
      simp [hj]
    refine ⟨by rw [he]; simp, h.parts, fun j x hx => ?_, fun j hj => ?_, ?_, fun j hj => ?_, ?_⟩
    · have hjk : j ≠ k := by rintro rfl; exact hnot x hx
      obtain ⟨a, b, e, f⟩ := h.waiting j x (List.mem_cons_of_mem _ hx)
      exact ⟨a, by simpa [hjk] using b, by simpa [hjk] using e, by rw [hother j hjk, f]⟩
    · by_cases hjk : j = k
      · subst hjk
        refine ⟨by simp [htk], ?_⟩
        rw [htk]
        simp only [look_put, if_true]
        exact enters_congr hm hag.symm rfl rfl rfl hgen
      · obtain ⟨a, b⟩ := h.finished j (fun x hx => by
          rcases List.mem_cons.1 hx with e | e
          · exact hjk (congrArg Prod.fst e)
          · exact hj x e)
        refine ⟨by simpa [hjk] using a, ?_⟩
        cases htj : targets j with
        | none => rw [htj] at b; exact ⟨by simpa [hjk] using b.1, by rw [hother j hjk, b.2]⟩
        | some x =>
          rw [htj] at b
          simp only [look_put, hjk, if_false]
          exact enters_congr b rfl (hother j hjk) rfl rfl rfl
    · rw [he]
      simpa [withAgent, withWindow] using h.generation
    · rw [he]
      simpa [withAgent, withWindow, hj] using h.others j hj
    · rw [he]
      exact h.results

/-- The start of a recall in which no target is revoked at once: each named agent enters a set, and nothing else changes. -/
theorem startRecall_started {d : Directory} {now : Tick} {i : SlotId} {cause : Cause} {force : Bool} {w : Window}
    {ts : List (Agent × Level)} {targets : Agent → Option Level} (hw : d.window i = some w) (hn : (ts.map (·.1)).Nodup)
    (hts : ∀ j l, (j, l) ∈ ts ↔ targets j = some l)
    (ha : ∀ j l, targets j = some l → (w.holding j).above l = true ∧ (w.pinCount j = 0 ∨ force = false)) :
    RecallStarted d (d.startRecall now i cause force ts) now i w ((RecallContext.blank force).addCause cause) targets ∧
      (d.startRecall now i cause force ts).parked = d.parked ∧
      (d.startRecall now i cause force ts).choices = d.choices := by
  have hforce : ((RecallContext.blank force).addCause cause).force = force := by cases cause <;> rfl
  have hb : ((RecallContext.blank force).addCause cause).targets = Vector.replicate 8 none ∧
      ((RecallContext.blank force).addCause cause).members = Vector.replicate 8 .neither := by cases cause <;> exact ⟨rfl, rfl⟩
  have hc : d.createContext i cause force =
      withWindow d i { w with reservation := none, context := some ((RecallContext.blank force).addCause cause) } :=
    modWindow_eq_withWindow _ hw
  obtain ⟨c', h⟩ := Started.merge (d₀ := d) (now := now) (i := i) (w := w)
    (opened := (RecallContext.blank force).addCause cause) (targets := targets) ts (d.createContext i cause force)
    ((RecallContext.blank force).addCause cause) hn (fun j l hj => by rw [hforce]; exact ha j l ((hts j l).1 hj))
    ⟨by rw [hc]; simp, rfl,
      fun j l hj => ⟨(hts j l).1 hj, by simp [hb], by simp [hb], by rw [hc]; simp⟩,
      fun j hj => by
        have hnone : targets j = none := by
          cases e : targets j with
          | none => rfl
          | some l => exact absurd ((hts j l).2 e) (hj l)
        rw [hnone]
        exact ⟨by simp [hb], by simp [hb], by rw [hc]; simp⟩,
      by rw [hc]; simp [withWindow], fun j hj => by rw [hc]; simp [withWindow, hj], ⟨rfl, rfl, rfl, rfl⟩⟩
  exact ⟨⟨⟨c', h.window, h.parts, fun j => h.finished j (by simp)⟩, h.generation, h.others, h.results.1, h.results.2.1⟩,
    h.results.2.2.1, h.results.2.2.2⟩

/-- A recall that starts after a change of its own window alone. -/
theorem recallStarted_of_withWindow {d d' : Directory} {now : Tick} {i : SlotId} {v w : Window} {opened : RecallContext}
    {targets : Agent → Option Level} (h : RecallStarted (withWindow d i v) d' now i w opened targets) :
    RecallStarted d d' now i w opened targets := by
  obtain ⟨⟨c, h1, h2, h3⟩, h4, h5, h6⟩ := h
  refine ⟨⟨c, h1, h2, fun j => ⟨(h3 j).1, ?_⟩⟩, h4.trans (by simp [withWindow]),
    fun j hj => (h5 j hj).trans (by simp [withWindow, hj]), h6⟩
  have h := (h3 j).2
  cases e : targets j with
  | none => rw [e] at h; exact h
  | some l => rw [e] at h; exact enters_congr h rfl rfl rfl rfl (by simp)

/-- A recall that starts with a target does not complete in its event: the set it enters is not empty (R98). -/
theorem checkCompletion_of_started {d d' : Directory} {now : Tick} {i : SlotId} {w : Window} {opened : RecallContext}
    {targets : Agent → Option Level} (h : RecallStarted d d' now i w opened targets) {j : Agent} (hj : targets j ≠ none) :
    d'.checkCompletion now i = d' := by
  obtain ⟨⟨c, h1, h2, h3⟩, _⟩ := h
  have hm : (look c.members j).isMember = true := by
    have h := (h3 j).2
    cases e : targets j with
    | none => exact absurd e hj
    | some l =>
      rw [e] at h
      simp only [Enters] at h
      split at h
      · obtain ⟨n, hn, _⟩ := h
        rw [hn]; rfl
      · rw [h.1]; rfl
  have hw : c.waits = true := by
    simp only [RecallContext.waits, List.any_eq_true, List.mem_finRange, true_and]
    exact ⟨j, hm⟩
  simp [Directory.checkCompletion, Directory.context, h1, hw]

/-! ### Head service (R87) -/

theorem nodup_agents {f : Agent → Option (Agent × Level)} (h : ∀ j x, f j = some x → x.1 = j) :
    ((allAgents.filterMap f).map (·.1)).Nodup := by
  rw [List.map_filterMap]
  refine List.Nodup.filterMap (fun a b x ha hb => ?_) (List.nodup_finRange 8)
  simp only [Option.map_eq_some_iff, Option.mem_def] at ha hb
  obtain ⟨u, hu, rfl⟩ := ha
  obtain ⟨v, hv, e⟩ := hb
  rw [← h a u hu, ← h b v hv, e]

theorem conflicts_nodup (w : Window) (k : Agent) (kind : AccessKind) : ((w.conflicts k kind).map (·.1)).Nodup := by
  refine nodup_agents fun j x hx => ?_
  by_cases e : j = k
  · simp [e] at hx
  · simp only [e, if_false, Option.map_eq_some_iff] at hx
    obtain ⟨l, _, rfl⟩ := hx
    rfl

theorem mem_conflicts_iff_lowering {w : Window} {k : Agent} {kind : AccessKind} (j : Agent) (l : Level) :
    (j, l) ∈ w.conflicts k kind ↔ lowering w k kind j = some l := by
  rw [mem_conflicts]
  by_cases e : j = k
  · simp [e, lowering]
  · simp [e, targetOf_eq_lowering e]

theorem lowering_above {w : Window} {k j : Agent} {kind : AccessKind} {l : Level} (h : lowering w k kind j = some l) :
    (w.holding j).above l = true := by
  unfold lowering at h
  split at h
  · cases h
  · cases kind <;> cases e : w.holding j <;> simp_all [Holding.above, Holding.rank, Level.holding] <;> subst h <;> decide

/-- A recall for the sake of a waiting agent. -/
theorem startRecall_waiter {d : Directory} {now : Tick} {i : SlotId} {w : Window} {k : Agent} {kind : AccessKind}
    (hw : d.window i = some w) :
    RecallStarted d (d.startRecall now i .waiter false (w.conflicts k kind)) now i w waiterAlone (lowering w k kind) ∧
      (d.startRecall now i .waiter false (w.conflicts k kind)).parked = d.parked ∧
      (d.startRecall now i .waiter false (w.conflicts k kind)).choices = d.choices :=
  startRecall_started hw (conflicts_nodup w k kind) mem_conflicts_iff_lowering fun _ _ h => ⟨lowering_above h, .inr rfl⟩

/-- Head service where it does not run. -/
theorem headService_idle {d : Directory} {now : Tick} {i : SlotId} {w : Window} (hw : d.window i = some w)
    (h : w.context ≠ none ∨ w.reservation ≠ none) : d.headService now i = d := by
  unfold Directory.headService
  rw [hw]
  simp only
  rw [if_pos]
  rcases h with h | h
  · simp [Option.isSome_iff_ne_none.2 h]
  · simp [Option.isSome_iff_ne_none.2 h]

theorem servable_nil {w : Window} (h : ∀ y ∈ w.waiters, ¬ RightCovers (w.right y.agent) y.wanted) : w.servable = [] := by
  simp only [Window.servable, List.dropWhile_eq_nil_iff]
  intro y hy
  simpa [← allows_iff] using h y hy

theorem servable_cons {w : Window} {lost rest : List Waiter} {x : Waiter} (e : w.waiters = lost ++ x :: rest)
    (hl : ∀ y ∈ lost, ¬ RightCovers (w.right y.agent) y.wanted) (hx : RightCovers (w.right x.agent) x.wanted) :
    w.servable = x :: rest := by
  have hl' : ∀ y ∈ lost, (!(w.right y.agent).allows y.wanted) = true := fun y hy => by simpa [← allows_iff] using hl y hy
  have hx' : (!(w.right x.agent).allows x.wanted) = false := by simpa using allows_iff.2 hx
  rw [Window.servable, e, List.dropWhile_append_of_pos hl']
  simp [hx']

/-- Head service where no entitled entry waits. -/
theorem headService_none {d : Directory} {now : Tick} {i : SlotId} {w : Window} (hw : d.window i = some w)
    (hc : w.context = none) (hr : w.reservation = none) (h : w.servable = []) :
    d.headService now i = withWindow d i { w with waiters := [] } := by
  unfold Directory.headService
  rw [hw]
  simp [hc, hr, h, modWindow_eq_withWindow _ hw]

/-- Head service of an entitled head. -/
theorem headService_some {d : Directory} {now : Tick} {i : SlotId} {w : Window} {x : Waiter} {rest : List Waiter}
    (hw : d.window i = some w) (hc : w.context = none) (hr : w.reservation = none) (h : w.servable = x :: rest) :
    d.headService now i =
      if w.conflicts x.agent (x.wanted.decided w.fields.cacheable) = [] then
        withWindow d i
          { w with
            waiters := x :: rest
            reservation := some
              { agent := x.agent, expiry := timer now ((d.agent x.agent).settings.reservationHold.setWidth 32) } }
      else
        (withWindow d i { w with waiters := x :: rest }).startRecall now i .waiter false
          (w.conflicts x.agent (x.wanted.decided w.fields.cacheable)) := by
  have hw' : (withWindow d i { w with waiters := x :: rest }).window i = some { w with waiters := x :: rest } := by simp
  unfold Directory.headService
  rw [hw]
  have hrun : (w.context.isSome || w.reservation.isSome) = false := by simp [hc, hr]
  simp only [hrun, h, modWindow_eq_withWindow _ hw, Bool.false_eq_true, if_false]
  cases e : w.conflicts x.agent (x.wanted.decided w.fields.cacheable) with
  | nil =>
    simp only [if_true]
    rw [modWindow_eq_withWindow _ hw', withWindow_withWindow]
    rfl
  | cons t ts => simp

/-- Head service keeps the fields, the holdings, the pins, the watch and the handle of its window. -/
theorem headService_keeps {d : Directory} {i : SlotId} {w : Window} (now : Tick) (hw : d.window i = some w) :
    (∃ v, (d.headService now i).window i = some v ∧ v.fields = w.fields ∧ v.holdings = w.holdings ∧ v.pins = w.pins ∧
      v.watch = w.watch) ∧ slotHandle (d.headService now i) i = slotHandle d i := by
  by_cases hrun : w.context ≠ none ∨ w.reservation ≠ none
  · rw [headService_idle hw hrun]
    exact ⟨⟨w, hw, rfl, rfl, rfl, rfl⟩, rfl⟩
  · push Not at hrun
    obtain ⟨hc, hr⟩ := hrun
    cases hs : w.servable with
    | nil =>
      rw [headService_none hw hc hr hs]
      exact ⟨⟨_, (window_withWindow d i i _).trans (if_pos rfl), rfl, rfl, rfl, rfl⟩, by simp⟩
    | cons x rest =>
      rw [headService_some hw hc hr hs]
      split
      · exact ⟨⟨_, (window_withWindow d i i _).trans (if_pos rfl), rfl, rfl, rfl, rfl⟩, by simp⟩
      · have hw' : (withWindow d i { w with waiters := x :: rest }).window i = some { w with waiters := x :: rest } := by
          simp
        obtain ⟨⟨⟨c, hv, _⟩, hg, _⟩, _⟩ := startRecall_waiter (now := now) (k := x.agent)
          (kind := x.wanted.decided w.fields.cacheable) hw'
        refine ⟨⟨_, hv, rfl, rfl, rfl, rfl⟩, ?_⟩
        have hg' := hg.trans (show _ = (look d.slots i).generation by simp [withWindow])
        unfold slotHandle
        rw [← hg']
        rfl

end Sys2Proof.Machine
end

