-- ==== Sys2Proof/Laws/Endings.lean ====
section
/-! SUPPORT. What ends an event: detaches that the event completes (R161), and RECALLs withdrawn at a recall's end (R118). -/

namespace Sys2Proof.Machine

open Sys2Proof.Safety

/-- An event that empties no DETACHING agent completes no detach. -/
theorem settle_quiet {before after : Directory} {now : Tick}
    (h : ∀ j, (after.agent j).state = .detaching → (after.agent j).holdingCount = (before.agent j).holdingCount) :
    after.settle now before = after := by
  have e : before.emptied after = [] := by
    unfold Directory.emptied
    rw [List.filter_eq_nil_iff]
    intro j _ hj
    simp only [Bool.and_eq_true, beq_iff_eq, bne_iff_ne] at hj
    exact hj.2 ((h j hj.1.1) ▸ hj.1.2)
  simp [Directory.settle, e, Directory.completeDetaches, freeOrder]

/-- With no RECALL for the slot in any queue, there is none to withdraw. -/
theorem withdrawAll_none {d : Directory} {i : SlotId} (h : ∀ k, (d.agent k).holdsRecall i = false) : d.withdrawAll i = d := by
  unfold Directory.withdrawAll
  have : ∀ l : List Agent, l.foldl (fun d k => d.withdrawRecall i k) d = d := by
    intro l
    induction l with
    | nil => rfl
    | cons k l ih =>
      have e : d.withdrawRecall i k = d := by simp [Directory.withdrawRecall, h k]
      rw [List.foldl_cons, e, ih]
  exact this _

theorem recallPlaced_keeps {a a' : AgentRecord} {i : SlotId} {l : Level} {f : NoticeFields} {n : NoticeStatus}
    (h : RecallPlaced a a' i l f n) : a'.state = a.state ∧ a'.holdingCount = a.holdingCount := by
  rw [← h.1]
  exact ⟨rfl, rfl⟩

/-- The start of a recall keeps every agent's state and Holding Count. -/
theorem recallStarted_keeps {d d' : Directory} {now : Tick} {i : SlotId} {w : Window} {opened : RecallContext}
    {targets : Agent → Option Level} (h : RecallStarted d d' now i w opened targets) (j : Agent) :
    (d'.agent j).state = (d.agent j).state ∧ (d'.agent j).holdingCount = (d.agent j).holdingCount := by
  obtain ⟨⟨c, _, _, h3⟩, _⟩ := h
  have g := (h3 j).2
  cases e : targets j with
  | none => rw [e] at g; rw [g.2]; exact ⟨rfl, rfl⟩
  | some l =>
    rw [e] at g
    simp only [Enters] at g
    split at g
    · obtain ⟨n, _, hn⟩ := g
      exact recallPlaced_keeps hn
    · rw [g.2]; exact ⟨rfl, rfl⟩

/-- Head service keeps every agent's state and Holding Count. -/
theorem headService_agents {d : Directory} {i : SlotId} {w : Window} (now : Tick) (hw : d.window i = some w) (j : Agent) :
    ((d.headService now i).agent j).state = (d.agent j).state ∧
      ((d.headService now i).agent j).holdingCount = (d.agent j).holdingCount := by
  by_cases hrun : w.context ≠ none ∨ w.reservation ≠ none
  · rw [headService_idle hw hrun]; exact ⟨rfl, rfl⟩
  · push Not at hrun
    cases hs : w.servable with
    | nil => rw [headService_none hw hrun.1 hrun.2 hs]; exact ⟨rfl, rfl⟩
    | cons x rest =>
      rw [headService_some hw hrun.1 hrun.2 hs]
      split
      · exact ⟨rfl, rfl⟩
      · have hw' : (withWindow d i { w with waiters := x :: rest }).window i = some { w with waiters := x :: rest } := by simp
        exact recallStarted_keeps (startRecall_waiter (now := now) (k := x.agent)
          (kind := x.wanted.decided w.fields.cacheable) hw').1 j

end Sys2Proof.Machine
end

