-- ==== Sys2Proof/Laws/Falls.lean ====
section
/-! SUPPORT. "Every other change to a holding lowers it" (R70): what the operations of recall, departure and completion can do to
holdings and pins. One relation and one lemma per operation. -/

namespace Sys2Proof.Machine

/-- From `w` to `w'` no holding rises, a pin count stays or is cleared, and it is cleared where the holding is lost. -/
structure Window.Falls (w w' : Window) : Prop where
  lower : ∀ k, (w'.holding k).rank ≤ (w.holding k).rank
  pins : ∀ k, w'.pinCount k = w.pinCount k ∨ w'.pinCount k = 0
  cleared : ∀ k, w'.holding k = .none → w.holding k = .none ∨ w'.pinCount k = 0

/-- Every window of `d'` is one of `d` whose holdings have not risen. -/
def Directory.Falls (d d' : Directory) : Prop := ∀ i w', d'.window i = some w' → ∃ w, d.window i = some w ∧ w.Falls w'

theorem Window.Falls.refl (w : Window) : w.Falls w := ⟨fun _ => le_rfl, fun _ => .inl rfl, fun _ h => .inl h⟩

theorem Window.Falls.trans {u v w : Window} (h : u.Falls v) (g : v.Falls w) : u.Falls w where
  lower k := (g.lower k).trans (h.lower k)
  pins k := by
    rcases g.pins k with e | e
    · rcases h.pins k with e' | e'
      · exact .inl (e.trans e')
      · exact .inr (e.trans e')
    · exact .inr e
  cleared k hk := by
    rcases g.cleared k hk with e | e
    · rcases h.cleared k e with e' | e'
      · exact .inl e'
      · rcases g.pins k with p | p
        · exact .inr (p.trans e')
        · exact .inr p
    · exact .inr e

/-- An update that leaves holdings and pins alone. -/
theorem Window.Falls.of_eq {w w' : Window} (h : w'.holdings = w.holdings) (p : w'.pins = w.pins) : w.Falls w' where
  lower k := by simp [Window.holding, h]
  pins k := by simp [Window.pinCount, p]
  cleared k := by simp [Window.holding, h]; tauto

namespace Directory

theorem Falls.refl (d : Directory) : d.Falls d := fun _ w h => ⟨w, h, Window.Falls.refl w⟩

theorem Falls.trans {a b c : Directory} (h : a.Falls b) (g : b.Falls c) : a.Falls c := by
  intro i w hw
  obtain ⟨v, hv, gv⟩ := g i w hw
  obtain ⟨u, hu, hu'⟩ := h i v hv
  exact ⟨u, hu, hu'.trans gv⟩

/-- The windows are the same. -/
theorem Falls.of_windows {a d d' : Directory} (h : a.Falls d) (e : ∀ i, d'.window i = d.window i) : a.Falls d' :=
  fun i w hw => h i w ((e i).symm.trans hw)

/-- The slots are the same. -/
theorem Falls.of_slots {a d d' : Directory} (h : a.Falls d) (e : d'.slots = d.slots) : a.Falls d' :=
  h.of_windows fun i => by simp [Directory.window, e]

theorem Falls.modWindow {a d : Directory} (h : a.Falls d) (i : SlotId) {f : Window → Window}
    (g : ∀ w : Window, w.Falls (f w)) : a.Falls (d.modWindow i f) := by
  refine h.trans fun j w hw => ?_
  by_cases e : j = i
  · subst e
    simp only [window_modWindow, if_true, Option.map_eq_some_iff] at hw
    obtain ⟨v, hv, rfl⟩ := hw
    exact ⟨v, hv, g v⟩
  · simp only [window_modWindow, e, if_false] at hw
    exact ⟨w, hw, .refl w⟩

/-- An update of a window that leaves holdings and pins alone. -/
theorem Falls.touch {a d : Directory} (h : a.Falls d) (i : SlotId) {f : Window → Window}
    (g : ∀ w : Window, (f w).holdings = w.holdings) (p : ∀ w : Window, (f w).pins = w.pins) : a.Falls (d.modWindow i f) :=
  h.modWindow i fun w => .of_eq (g w) (p w)

theorem Falls.modContext {a d : Directory} (h : a.Falls d) (i : SlotId) (f : RecallContext → RecallContext) :
    a.Falls (d.modContext i f) := h.touch i (fun _ => rfl) fun _ => rfl

theorem Falls.modAgent {a d : Directory} (h : a.Falls d) (k : Agent) (f : AgentRecord → AgentRecord) :
    a.Falls (d.modAgent k f) := h.of_slots rfl

theorem Falls.modAlerts {a d : Directory} (h : a.Falls d) (f : Alerts → Alerts) :
    a.Falls (d.modAlerts f) := h.of_slots rfl

theorem Falls.record {a d : Directory} (h : a.Falls d) (r : Record) :
    a.Falls (d.record r) := h.of_slots rfl

theorem Falls.finish {a d : Directory} (h : a.Falls d) (r : Record) :
    a.Falls (d.finish r) := h.of_slots rfl

theorem Falls.reply {a d : Directory} (h : a.Falls d) (e : Entry) (x : Status) (v : Word) :
    a.Falls (d.reply e x v) := h.of_slots rfl

theorem Falls.park {a d : Directory} (h : a.Falls d) (p : Parked) :
    a.Falls (d.park p) := h.of_slots rfl

theorem Falls.freeSlot {a d : Directory} (h : a.Falls d) (i : SlotId) : a.Falls (d.freeSlot i) := by
  refine h.trans fun j w hw => ?_
  by_cases e : j = i
  · simp [e] at hw
  · simp only [window_freeSlot, e, if_false] at hw
    exact ⟨w, hw, .refl w⟩

theorem Falls.foldl {α : Type} {a d : Directory} (h : a.Falls d) (f : Directory → α → Directory)
    (g : ∀ (d : Directory) (x : α), d.Falls (f d x)) (l : List α) : a.Falls (l.foldl f d) := by
  induction l generalizing d with
  | nil => exact h
  | cons x l ih => exact ih (h.trans (g d x))

/-! ### Notices -/

theorem Falls.markNotice {a d : Directory} (h : a.Falls d) (i : SlotId) (k : Agent) (n : NoticeStatus) :
    a.Falls (d.markNotice i k n) := h.modContext i _

theorem Falls.fillPlace {a d : Directory} (h : a.Falls d) (k : Agent) :
    a.Falls (d.fillPlace k) := by
  unfold Directory.fillPlace
  repeat' split
  all_goals repeat first
    | with_reducible exact h
    | with_reducible apply Falls.markNotice
    | with_reducible apply Falls.modAgent
    | exact fun _ => rfl

theorem Falls.withdrawRecall {a d : Directory} (h : a.Falls d) (i : SlotId) (k : Agent) :
    a.Falls (d.withdrawRecall i k) := by
  unfold Directory.withdrawRecall
  repeat' split
  all_goals repeat first
    | with_reducible exact h
    | with_reducible apply Falls.fillPlace
    | with_reducible apply Falls.modAgent
    | exact fun _ => rfl

theorem Falls.withdrawAll {a d : Directory} (h : a.Falls d) (i : SlotId) :
    a.Falls (d.withdrawAll i) := 
  h.foldl _ (fun d k => (Falls.refl d).withdrawRecall i k) _

theorem Falls.takeNotice {a d : Directory} (h : a.Falls d) (k : Agent) (n : Notice) :
    a.Falls (d.takeNotice k n) := by
  unfold Directory.takeNotice
  dsimp only
  repeat' split
  all_goals repeat first
    | with_reducible exact h
    | with_reducible apply Falls.fillPlace
    | with_reducible apply Falls.markNotice
    | with_reducible apply Falls.modAgent
    | exact fun _ => rfl

theorem Falls.placeRecall {a d : Directory} (h : a.Falls d) (i : SlotId) (k : Agent) :
    a.Falls (d.placeRecall i k) := by
  unfold Directory.placeRecall
  dsimp only
  repeat' split
  all_goals repeat first
    | with_reducible exact h
    | with_reducible apply Falls.markNotice
    | with_reducible apply Falls.modAgent
    | exact fun _ => rfl

theorem Falls.placeRecallAgain {a d : Directory} (h : a.Falls d) (i : SlotId) (k : Agent) :
    a.Falls (d.placeRecallAgain i k) := by
  unfold Directory.placeRecallAgain
  repeat' split
  all_goals repeat first
    | with_reducible exact h
    | with_reducible apply Falls.placeRecall
    | exact fun _ => rfl

/-! ### Recall -/

theorem Falls.enterOutstanding {a d : Directory} (h : a.Falls d) (now : Tick) (i : SlotId) (k : Agent) :
    a.Falls (d.enterOutstanding now i k) := 
  (h.modContext i _).placeRecall i k

/-- The holding of an agent set to a level that is not higher, with its pins cleared if the holding is lost, or anyway. -/
theorem falls_lower (d : Directory) (i : SlotId) (k : Agent) (h : Holding) (clear : Bool)
    (low : ∀ w, d.window i = some w → h.rank ≤ (w.holding k).rank)
    (lost : ∀ w, d.window i = some w → h = .none → w.holding k = .none ∨ clear = true) :
    d.Falls (if clear then (d.setHolding i k h).setPins i k 0 else d.setHolding i k h) := by
  intro j w hw
  by_cases e : j = i
  · subst e
    cases clear
    · simp only [Bool.false_eq_true, if_false, window_setHolding, if_true, Option.map_eq_some_iff] at hw
      obtain ⟨v, hv, rfl⟩ := hw
      refine ⟨v, hv, ⟨fun a => ?_, fun a => .inl rfl, fun a ha => ?_⟩⟩
      · by_cases ea : a = k
        · subst ea; simpa using low v hv
        · simp [ea]
      · by_cases ea : a = k
        · subst ea
          simp only [holding_setHolding, if_true] at ha
          rcases lost v hv ha with q | q
          · exact .inl q
          · cases q
        · simp only [holding_setHolding, ea, if_false] at ha
          exact .inl ha
    · simp only [if_true, window_setPins, window_setHolding, Option.map_map, Option.map_eq_some_iff] at hw
      obtain ⟨v, hv, rfl⟩ := hw
      refine ⟨v, hv, ⟨fun a => ?_, fun a => ?_, fun a ha => ?_⟩⟩
      · by_cases ea : a = k
        · subst ea; simpa using low v hv
        · simp [ea]
      · by_cases ea : a = k <;> simp [ea]
      · by_cases ea : a = k
        · simp [ea]
        · simp [ea] at ha
          exact .inl ha
  · have : d.window j = some w := by
      cases clear <;> simpa [e] using hw
    exact ⟨w, this, .refl w⟩

theorem Falls.revoke {a d : Directory} (h : a.Falls d) (i : SlotId) (k : Agent) (force : Bool) :
    a.Falls (d.revoke i k force) := by
  refine h.trans ?_
  unfold Directory.revoke
  split
  · next w l f hw _ =>
    refine .modAgent (.modContext ?_ i _) k _
    refine falls_lower d i k _ (force || l == .none) (fun v hv => ?_) (fun v hv hn => ?_)
    · rw [hw] at hv
      cases hv
      exact rank_lowered_le _ l
    · rw [hw] at hv
      cases hv
      rcases above_of_lowered_none hn with q | q
      · exact .inl q
      · exact .inr (by simp [q])
  all_goals exact .refl d

theorem Falls.mergeTarget {a d : Directory} (h : a.Falls d) (now : Tick) (b : Bool) (i : SlotId) (k : Agent) (l : Level) :
    a.Falls (d.mergeTarget now b i k l) := by
  unfold Directory.mergeTarget
  dsimp only
  repeat' split
  all_goals repeat first
    | with_reducible exact h
    | with_reducible apply Falls.enterOutstanding
    | with_reducible apply Falls.revoke
    | with_reducible apply Falls.placeRecallAgain
    | with_reducible apply Falls.modContext
    | exact fun _ => rfl

theorem Falls.mergeTargets {a d : Directory} (h : a.Falls d) (now : Tick) (i : SlotId) (ts : List (Agent × Level)) :
    a.Falls (d.mergeTargets now i ts) := 
  h.foldl _ (fun d (t : Agent × Level) => (Falls.refl d).mergeTarget now false i t.1 t.2) ts

theorem Falls.revokeBlocked {a d : Directory} (h : a.Falls d) (i : SlotId) : a.Falls (d.revokeBlocked i) := by
  refine h.foldl _ (fun d k => ?_) _
  split
  · exact (Falls.refl d).revoke i k true
  · exact .refl d

theorem Falls.createContext {a d : Directory} (h : a.Falls d) (i : SlotId) (c : Cause) (b : Bool) :
    a.Falls (d.createContext i c b) := h.touch i (fun _ => rfl) fun _ => rfl

theorem Falls.addCause {a d : Directory} (h : a.Falls d) (i : SlotId) (c : Cause) :
    a.Falls (d.addCause i c) := h.modContext i _

theorem Falls.setForce {a d : Directory} (h : a.Falls d) (i : SlotId) (b : Bool) :
    a.Falls (d.setForce i b) := h.modContext i _

theorem Falls.startRecall {a d : Directory} (h : a.Falls d) (now : Tick) (i : SlotId) (c : Cause) (b : Bool) (ts : List (Agent × Level)) :
    a.Falls (d.startRecall now i c b ts) := 
  (h.createContext i c b).mergeTargets now i ts

theorem Falls.headService {a d : Directory} (h : a.Falls d) (now : Tick) (i : SlotId) :
    a.Falls (d.headService now i) := by
  unfold Directory.headService
  dsimp only
  repeat' split
  all_goals repeat first
    | with_reducible exact h
    | with_reducible apply Falls.startRecall
    | with_reducible apply Falls.touch
    | exact fun _ => rfl

theorem Falls.closeContext {a d : Directory} (h : a.Falls d) (now : Tick) (i : SlotId) :
    a.Falls (d.closeContext now i) := by
  unfold Directory.closeContext
  dsimp only
  repeat first
    | with_reducible exact h
    | with_reducible apply Falls.headService
    | with_reducible apply Falls.withdrawAll
    | with_reducible apply Falls.touch
    | exact fun _ => rfl

theorem Falls.applyRevision {a d : Directory} (h : a.Falls d) (i : SlotId) :
    a.Falls (d.applyRevision i) := by
  unfold Directory.applyRevision
  dsimp only
  repeat' split
  all_goals repeat first
    | with_reducible exact h
    | with_reducible apply Falls.finish
    | with_reducible apply Falls.touch
    | exact fun _ => rfl

theorem Falls.endWatch {a d : Directory} (h : a.Falls d) (i : SlotId) :
    a.Falls (d.endWatch i) := by
  unfold Directory.endWatch
  repeat' split
  all_goals repeat first
    | with_reducible exact h
    | with_reducible apply Falls.finish
    | with_reducible apply Falls.touch
    | exact fun _ => rfl

theorem Falls.completeRetirement {a d : Directory} (h : a.Falls d) (i : SlotId) :
    a.Falls (d.completeRetirement i) := by
  unfold Directory.completeRetirement
  dsimp only
  repeat' split
  all_goals repeat first
    | with_reducible exact h
    | with_reducible apply Falls.finish
    | with_reducible apply Falls.freeSlot
    | with_reducible apply Falls.endWatch
    | with_reducible apply Falls.withdrawAll
    | with_reducible apply Falls.touch
    | exact fun _ => rfl

theorem Falls.complete {a d : Directory} (h : a.Falls d) (now : Tick) (i : SlotId) (c : RecallContext) :
    a.Falls (d.complete now i c) := by
  unfold Directory.complete
  repeat' split
  all_goals repeat first
    | with_reducible exact h
    | with_reducible apply Falls.completeRetirement
    | with_reducible apply Falls.closeContext
    | with_reducible apply Falls.applyRevision
    | exact fun _ => rfl

theorem Falls.checkCompletion {a d : Directory} (h : a.Falls d) (now : Tick) (i : SlotId) :
    a.Falls (d.checkCompletion now i) := by
  unfold Directory.checkCompletion
  repeat' split
  all_goals repeat first
    | with_reducible exact h
    | with_reducible apply Falls.complete
    | exact fun _ => rfl

theorem Falls.afterCauseLeft {a d : Directory} (h : a.Falls d) (now : Tick) (i : SlotId) :
    a.Falls (d.afterCauseLeft now i) := by
  unfold Directory.afterCauseLeft
  repeat' split
  all_goals repeat first
    | with_reducible exact h
    | with_reducible apply Falls.closeContext
    | exact fun _ => rfl

/-! ### Departure -/

theorem Falls.unlist {a d : Directory} (h : a.Falls d) (i : SlotId) (k : Agent) :
    a.Falls (d.unlist i k) := h.touch i (fun _ => rfl) fun _ => rfl

theorem Falls.leaveWaiters {a d : Directory} (h : a.Falls d) (now : Tick) (k : Agent) (i : SlotId) :
    a.Falls (d.leaveWaiters now k i) := by
  unfold Directory.leaveWaiters
  dsimp only
  repeat' split
  all_goals repeat first
    | with_reducible exact h
    | with_reducible apply Falls.headService
    | with_reducible apply Falls.unlist
    | exact fun _ => rfl

theorem Falls.removeFromContext {a d : Directory} (h : a.Falls d) (now : Tick) (k : Agent) (i : SlotId) :
    a.Falls (d.removeFromContext now k i) := by
  unfold Directory.removeFromContext
  dsimp only
  repeat' split
  all_goals repeat first
    | with_reducible exact h
    | with_reducible apply Falls.afterCauseLeft
    | with_reducible apply Falls.checkCompletion
    | with_reducible apply Falls.modContext
    | exact fun _ => rfl

theorem Falls.loseWindow {a d : Directory} (h : a.Falls d) (now : Tick) (k : Agent) (i : SlotId) :
    a.Falls (d.loseWindow now k i) := by
  refine h.trans ?_
  have g : d.Falls ((d.setHolding i k .none).setPins i k 0) := by
    simpa using d.falls_lower i k .none true (fun _ _ => by simp [Holding.rank]) (fun _ _ _ => .inr rfl)
  have g' := (g.unlist i k).removeFromContext now k i
  unfold Directory.loseWindow
  dsimp only
  repeat' split
  · exact .refl d
  · exact g'.headService now i
  · exact g'

theorem Falls.endDetach {a d : Directory} (h : a.Falls d) (k : Agent) (x : Status) :
    a.Falls (d.endDetach k x) := by
  unfold Directory.endDetach
  repeat' split
  all_goals repeat first
    | with_reducible exact h
    | with_reducible apply Falls.finish
    | with_reducible apply Falls.modAgent
    | exact fun _ => rfl

theorem Falls.agentLoss {a d : Directory} (h : a.Falls d) (now : Tick) (k : Agent) : a.Falls (d.agentLoss now k) :=
  .endDetach (.foldl (h.modAgent k _) _ (fun d i => (Falls.refl d).loseWindow now k i) _) k _

theorem Falls.fence {a d : Directory} (h : a.Falls d) (now : Tick) (k : Agent) :
    a.Falls (d.fence now k) := 
  (h.modAgent k _).agentLoss now k

theorem Falls.fenceCheck {a d : Directory} (h : a.Falls d) (now : Tick) (k : Agent) :
    a.Falls (d.fenceCheck now k) := by
  unfold Directory.fenceCheck
  repeat' split
  all_goals repeat first
    | with_reducible exact h
    | with_reducible apply Falls.modAlerts
    | with_reducible apply Falls.fence
    | exact fun _ => rfl

theorem Falls.leaveDetach {a d : Directory} (h : a.Falls d) (now : Tick) (k : Agent) (b : Bool) (i : SlotId) :
    a.Falls (d.leaveDetach now k b i) := 
  (h.modContext i _).afterCauseLeft now i

theorem Falls.completeDetach {a d : Directory} (h : a.Falls d) (now : Tick) (k : Agent) :
    a.Falls (d.completeDetach now k) := by
  have g : a.Falls { d with choices := (freeOrder d.choices (d.detachSlots k)).1 } := h.of_slots rfl
  exact ((g.foldl (fun d i => d.leaveDetach now k true i) (fun d i => (Falls.refl d).leaveDetach now k true i)
    (freeOrder d.choices (d.detachSlots k)).2).modAgent k _).endDetach k _

theorem Falls.completeDetaches {a d : Directory} (h : a.Falls d) (now : Tick) (ks : List Agent) :
    a.Falls (d.completeDetaches now ks) := by
  have g : a.Falls { d with choices := (freeOrder d.choices ks).1 } := h.of_slots rfl
  exact g.foldl (fun d k => d.completeDetach now k) (fun d k => (Falls.refl d).completeDetach now k)
    (freeOrder d.choices ks).2

theorem Falls.settle {a d : Directory} (h : a.Falls d) (now : Tick) (before : Directory) :
    a.Falls (d.settle now before) := h.completeDetaches now _

theorem Falls.handOverDetach {a d : Directory} (h : a.Falls d) (now : Tick) (k : Agent) (b : Bool) (i : SlotId) :
    a.Falls (d.handOverDetach now k b i) := by
  unfold Directory.handOverDetach
  dsimp only
  repeat' split
  all_goals repeat first
    | with_reducible exact h
    | with_reducible apply Falls.checkCompletion
    | with_reducible apply Falls.mergeTarget
    | with_reducible apply Falls.addCause
    | with_reducible apply Falls.createContext
    | exact fun _ => rfl

theorem Falls.startDetach {a d : Directory} (h : a.Falls d) (now : Tick) (k : Agent) (t : Tag) (b : Bool) :
    a.Falls (d.startDetach now k t b) := by
  refine .foldl (.foldl (h.modAgent k _) _ (fun d i => ?_) _) _ (fun d i => ?_) _
  · exact (Falls.refl d).leaveWaiters now k i
  · exact (Falls.refl d).handOverDetach now k b i

theorem Falls.abortDetach {a d : Directory} (h : a.Falls d) (now : Tick) (k : Agent) :
    a.Falls (d.abortDetach now k) :=
  .endDetach (.foldl (h.modAgent k _) _ (fun d i => (Falls.refl d).leaveDetach now k false i) _) k _

/-! ### Passings -/

theorem Falls.addScore {a d : Directory} (h : a.Falls d) (k : Agent) (n : Nat) :
    a.Falls (d.addScore k n) := h.of_slots rfl

theorem Falls.creditScore {a d : Directory} (h : a.Falls d) (k : Agent) :
    a.Falls (d.creditScore k) := h.of_slots rfl

theorem Falls.retry {a d : Directory} (h : a.Falls d) (now : Tick) (i : SlotId) (k : Agent) (w : Wait) :
    a.Falls (d.retry now i k w) := by
  unfold Directory.retry
  dsimp only
  repeat' split
  all_goals repeat first
    | with_reducible exact h
    | with_reducible apply Falls.fenceCheck
    | with_reducible apply Falls.placeRecallAgain
    | with_reducible apply Falls.modContext
    | with_reducible apply Falls.addScore
    | exact fun _ => rfl

theorem Falls.revokeOnTimeout {a d : Directory} (h : a.Falls d) (now : Tick) (i : SlotId) (k : Agent) :
    a.Falls (d.revokeOnTimeout now i k) := 
  ((((h.revoke i k false).addScore k 4).modAlerts _).fenceCheck now k).checkCompletion now i

theorem Falls.passDeadline {a d : Directory} (h : a.Falls d) (now : Tick) (i : SlotId) (k : Agent) (w : Wait) :
    a.Falls (d.passDeadline now i k w) := by
  unfold Directory.passDeadline
  dsimp only
  repeat' split
  all_goals repeat first
    | with_reducible exact h
    | with_reducible apply Falls.settle
    | with_reducible apply Falls.retry
    | with_reducible apply Falls.revokeOnTimeout
    | exact fun _ => rfl

theorem Falls.lapse {a d : Directory} (h : a.Falls d) (now : Tick) (i : SlotId) (r : Reservation) :
    a.Falls (d.lapse now i r) := by
  unfold Directory.lapse
  repeat first
    | with_reducible exact h
    | with_reducible apply Falls.headService
    | with_reducible apply Falls.touch
    | exact fun _ => rfl

theorem Falls.passIdle {a d : Directory} (h : a.Falls d) (now : Tick) (i : SlotId) (w : Window) :
    a.Falls (d.passIdle now i w) := by
  unfold Directory.passIdle
  dsimp only
  repeat' split
  all_goals repeat first
    | with_reducible exact h
    | with_reducible apply Falls.checkCompletion
    | with_reducible apply Falls.startRecall
    | with_reducible apply Falls.touch
    | exact fun _ => rfl

theorem Falls.advance {a d : Directory} (h : a.Falls d) (t : Tick) : a.Falls (d.advance t) := by
  refine h.trans fun i w hw => ?_
  simp only [window_advance, Option.map_eq_some_iff] at hw
  obtain ⟨v, hv, rfl⟩ := hw
  exact ⟨v, hv, .of_eq rfl rfl⟩

theorem Falls.awaitVerdict {a d : Directory} (h : a.Falls d) (i : SlotId) (k : Agent) : a.Falls (d.awaitVerdict i k) :=
  h.modContext i _

theorem Falls.verdictGiven {a d : Directory} (h : a.Falls d) (k : Agent) : a.Falls (d.verdictGiven k) := by
  refine h.trans fun i w hw => ?_
  simp only [window_verdictGiven, Option.map_eq_some_iff] at hw
  obtain ⟨v, hv, rfl⟩ := hw
  exact ⟨v, hv, .of_eq rfl rfl⟩

theorem window_afterReset (d : Directory) (i : SlotId) : d.afterReset.window i = none := by
  simp only [Directory.window, Directory.afterReset, look_map, Slot.afterReset]
  split <;> simp_all

theorem falls_afterReset (d : Directory) : d.Falls d.afterReset := by
  intro i w hw
  simp [window_afterReset] at hw

/-! ### Commands -/

theorem Falls.turnForceOn {a d : Directory} (h : a.Falls d) (i : SlotId) :
    a.Falls (d.turnForceOn i) := (h.setForce i true).revokeBlocked i

theorem Falls.joinRevision {a d : Directory} (h : a.Falls d) (now : Tick) (i : SlotId) (b : Bool) (ts : List (Agent × Level)) :
    a.Falls (d.joinRevision now i b ts) := by
  unfold Directory.joinRevision
  dsimp only
  repeat' split
  all_goals repeat first
    | with_reducible exact h
    | with_reducible apply Falls.mergeTargets
    | with_reducible apply Falls.turnForceOn
    | with_reducible apply Falls.addCause
    | exact fun _ => rfl

theorem Falls.handOverRevision {a d : Directory} (h : a.Falls d) (now : Tick) (i : SlotId) (b : Bool) (ts : List (Agent × Level)) :
    a.Falls (d.handOverRevision now i b ts) := by
  unfold Directory.handOverRevision
  dsimp only
  repeat' split
  all_goals repeat first
    | with_reducible exact h
    | with_reducible apply Falls.checkCompletion
    | with_reducible apply Falls.joinRevision
    | with_reducible apply Falls.startRecall
    | exact fun _ => rfl

theorem Falls.stage {a d : Directory} (h : a.Falls d) (i : SlotId) (p : PendingRevision) :
    a.Falls (d.stage i p) := h.touch i (fun _ => rfl) fun _ => rfl

theorem Falls.applyNow {a d : Directory} (h : a.Falls d) (now : Tick) (i : SlotId) (f : FieldSet) :
    a.Falls (d.applyNow now i f) := by
  unfold Directory.applyNow
  repeat first
    | with_reducible exact h
    | with_reducible apply Falls.headService
    | with_reducible apply Falls.touch
    | exact fun _ => rfl

theorem Falls.reviseLater {a d : Directory} (h : a.Falls d) (now : Tick) (i : SlotId) (w : Window) (e : Entry) (f : FieldSet) (b : Bool) :
    a.Falls (d.reviseLater now i w e f b) := by
  unfold Directory.reviseLater
  dsimp only
  repeat' split
  all_goals repeat first
    | with_reducible exact h
    | with_reducible apply Falls.settle
    | with_reducible apply Falls.park
    | with_reducible apply Falls.handOverRevision
    | with_reducible apply Falls.stage
    | exact fun _ => rfl

theorem Falls.acceptRevise {a d : Directory} (h : a.Falls d) (now : Tick) (i : SlotId) (w : Window) (e : Entry) (f : FieldSet) (b : Bool) :
    a.Falls (d.acceptRevise now i w e f b) := by
  unfold Directory.acceptRevise
  repeat' split
  all_goals repeat first
    | with_reducible exact h
    | with_reducible apply Falls.reply
    | with_reducible apply Falls.applyNow
    | with_reducible apply Falls.reviseLater
    | exact fun _ => rfl

theorem Falls.revise {a d : Directory} (h : a.Falls d) (now : Tick) (e : Entry) :
    a.Falls (d.revise now e) := by
  unfold Directory.revise
  dsimp only
  repeat' split
  all_goals repeat first
    | with_reducible exact h
    | with_reducible apply Falls.reply
    | with_reducible apply Falls.acceptRevise
    | exact fun _ => rfl

theorem Falls.supersede {a d : Directory} (h : a.Falls d) (i : SlotId) (b : Bool) :
    a.Falls (d.supersede i b) := by
  unfold Directory.supersede
  dsimp only
  repeat' split
  all_goals repeat first
    | with_reducible exact h
    | with_reducible apply Falls.finish
    | with_reducible apply Falls.touch
    | exact fun _ => rfl

theorem Falls.emptyForRetire {a d : Directory} (h : a.Falls d) (i : SlotId) (t : Tag) :
    a.Falls (d.emptyForRetire i t) := h.touch i (fun _ => rfl) fun _ => rfl

theorem Falls.handOverRetire {a d : Directory} (h : a.Falls d) (now : Tick) (i : SlotId) (b : Bool) :
    a.Falls (d.handOverRetire now i b) := by
  unfold Directory.handOverRetire
  dsimp only
  repeat' split
  all_goals repeat first
    | with_reducible exact h
    | with_reducible apply Falls.checkCompletion
    | with_reducible apply Falls.turnForceOn
    | with_reducible apply Falls.setForce
    | with_reducible apply Falls.mergeTargets
    | with_reducible apply Falls.addCause
    | with_reducible apply Falls.startRecall
    | exact fun _ => rfl

theorem Falls.acceptRetire {a d : Directory} (h : a.Falls d) (now : Tick) (i : SlotId) (e : Entry) (b : Bool) :
    a.Falls (d.acceptRetire now i e b) := by
  unfold Directory.acceptRetire
  dsimp only
  repeat' split
  all_goals repeat first
    | with_reducible exact h
    | with_reducible apply Falls.settle
    | with_reducible apply Falls.park
    | with_reducible apply Falls.handOverRetire
    | with_reducible apply Falls.emptyForRetire
    | with_reducible apply Falls.supersede
    | exact fun _ => rfl

theorem Falls.retire {a d : Directory} (h : a.Falls d) (now : Tick) (e : Entry) :
    a.Falls (d.retire now e) := by
  unfold Directory.retire
  dsimp only
  repeat' split
  all_goals repeat first
    | with_reducible exact h
    | with_reducible apply Falls.reply
    | with_reducible apply Falls.acceptRetire
    | exact fun _ => rfl

theorem Falls.startWatch {a d : Directory} (h : a.Falls d) (e : Entry) :
    a.Falls (d.startWatch e) := by
  unfold Directory.startWatch
  dsimp only
  repeat' split
  all_goals repeat first
    | with_reducible exact h
    | with_reducible apply Falls.reply
    | with_reducible apply Falls.park
    | with_reducible apply Falls.touch
    | exact fun _ => rfl

theorem Falls.abortRevision {a d : Directory} (h : a.Falls d) (now : Tick) (i : SlotId) (t : Tag) :
    a.Falls (d.abortRevision now i t) := by
  unfold Directory.abortRevision
  dsimp only
  repeat first
    | with_reducible exact h
    | with_reducible apply Falls.finish
    | with_reducible apply Falls.afterCauseLeft
    | with_reducible apply Falls.touch
    | exact fun _ => rfl

theorem Falls.abortWatch {a d : Directory} (h : a.Falls d) (i : SlotId) (t : Tag) :
    a.Falls (d.abortWatch i t) := by
  unfold Directory.abortWatch
  repeat first
    | with_reducible exact h
    | with_reducible apply Falls.finish
    | with_reducible apply Falls.touch
    | exact fun _ => rfl

theorem Falls.abort {a d : Directory} (h : a.Falls d) (now : Tick) (e : Entry) : a.Falls (d.abort now e) := by
  unfold Directory.abort
  dsimp only
  split
  · exact h.reply e _ _
  · next p _ =>
    cases q : p.work <;> simp only [abortWork, q]
    · exact (h.abortRevision now _ _).reply e _ _
    · exact h.reply e _ _
    · exact (h.abortWatch _ _).reply e _ _
    · exact (h.abortDetach now _).reply e _ _

end Directory

end Sys2Proof.Machine
end

