-- ==== Sys2Proof/Laws/PerInstr.lean ====
section
/-! SUPPORT. The law made for every command: no word spells it, since no row of the table gives bits (log 3). -/

namespace Sys2Proof.Laws

/-- No word of the opcode table spells this command. -/
def NoWord.Statement (i : Instr) : Prop := ∀ nbits w : Nat, decodeTableWord nbits w ≠ some i

/-- The decoder answers none for every word. -/
theorem decodeTableWord_none (nbits w : Nat) : decodeTableWord nbits w = none := rfl

/-- Every command has no word. -/
theorem noWord (i : Instr) : NoWord.Statement i := fun _ _ => nofun

theorem NoWord.requestAccepted (k : Agent) (message : BitVec 64) : NoWord.Statement (.requestAccepted k message) := noWord _
theorem NoWord.fetch : NoWord.Statement .fetch := noWord _
theorem NoWord.share : NoWord.Statement .share := noWord _
theorem NoWord.claim : NoWord.Statement .claim := noWord _
theorem NoWord.store : NoWord.Statement .store := noWord _
theorem NoWord.release : NoWord.Statement .release := noWord _
theorem NoWord.pin : NoWord.Statement .pin := noWord _
theorem NoWord.unpin : NoWord.Statement .unpin := noWord _
theorem NoWord.withdraw : NoWord.Statement .withdraw := noWord _
theorem NoWord.verdictReturned (k : Agent) : NoWord.Statement (.verdictReturned k) := noWord _
theorem NoWord.noticeTaken (k : Agent) : NoWord.Statement (.noticeTaken k) := noWord _
theorem NoWord.recallDeadline (i : SlotId) (k : Agent) : NoWord.Statement (.recallDeadline i k) := noWord _
theorem NoWord.reservationLapse (i : SlotId) : NoWord.Statement (.reservationLapse i) := noWord _
theorem NoWord.idleDeadline (i : SlotId) : NoWord.Statement (.idleDeadline i) := noWord _
theorem NoWord.clockAdvance : NoWord.Statement .clockAdvance := noWord _
theorem NoWord.openWindow : NoWord.Statement .openWindow := noWord _
theorem NoWord.query : NoWord.Statement .query := noWord _
theorem NoWord.queryAddr : NoWord.Statement .queryAddr := noWord _
theorem NoWord.revise : NoWord.Statement .revise := noWord _
theorem NoWord.retire : NoWord.Statement .retire := noWord _
theorem NoWord.watch : NoWord.Statement .watch := noWord _
theorem NoWord.abort : NoWord.Statement .abort := noWord _
theorem NoWord.agentAdmit : NoWord.Statement .agentAdmit := noWord _
theorem NoWord.agentSet : NoWord.Statement .agentSet := noWord _
theorem NoWord.agentQuery : NoWord.Statement .agentQuery := noWord _
theorem NoWord.agentDetach : NoWord.Statement .agentDetach := noWord _
theorem NoWord.agentFence : NoWord.Statement .agentFence := noWord _
theorem NoWord.unknownCommand : NoWord.Statement .unknownCommand := noWord _
theorem NoWord.completionPop (value : Word) : NoWord.Statement (.completionPop value) := noWord _
theorem NoWord.clockResolutionSet (resolution : Resolution) : NoWord.Statement (.clockResolutionSet resolution) := noWord _
theorem NoWord.directoryReset (resolution : Resolution) : NoWord.Statement (.directoryReset resolution) := noWord _
theorem NoWord.intEnableWrite (value : Word) : NoWord.Statement (.intEnableWrite value) := noWord _
theorem NoWord.alertStatusClear (value : Word) : NoWord.Statement (.alertStatusClear value) := noWord _
theorem NoWord.alertAgentsClear (value : Word) : NoWord.Statement (.alertAgentsClear value) := noWord _
theorem NoWord.registerWrite (index : BitVec 5) (value : Word) : NoWord.Statement (.registerWrite index value) := noWord _
theorem NoWord.agentReset (k : Agent) : NoWord.Statement (.agentReset k) := noWord _
theorem NoWord.powerOn : NoWord.Statement .powerOn := noWord _
theorem NoWord.badRequest : NoWord.Statement .badRequest := noWord _

end Sys2Proof.Laws
end

