-- ==== Sys2Proof/WellFormed.lean ====
section
/-! DEFINITION. Which commands are well formed: each write to the management port is one row of the table, so a
REGISTER_WRITE is a write to "a register with no behaviour of its own" (opcode_table.json, REGISTER_WRITE). All other operand
ranges are in the operands' types. The machine gives ill-formed writes the meaning of the register they reach (log 18). -/

namespace Sys2Proof

/-- The register at this word index has a row of its own for every write: INT_ENABLE (0x0C), ALERT_STATUS (0x10),
ALERT_AGENTS (0x14), COMPLETION_POP (0x5C) (R172). -/
def ownRow (index : BitVec 5) : Bool :=
  index == 3 || index == 4 || index == 5 || index == 23

/-- This write to CONTROL (0x08) starts a directory reset (R186), which is the row DIRECTORY_RESET. -/
def startsReset (index : BitVec 5) (value : Word) : Bool :=
  index == 2 && value.getLsbD 8

/-- The two checks a REGISTER_WRITE passes; every other command is well formed by its operands' types. -/
def Instr.wellFormed : Instr → Bool
  | .registerWrite index value => !ownRow index && !startsReset index value
  | .requestAccepted _ _ | .fetch | .share | .claim | .store | .release | .pin | .unpin | .withdraw
  | .verdictReturned _ | .noticeTaken _ | .recallDeadline _ _ | .reservationLapse _ | .idleDeadline _ | .clockAdvance
  | .openWindow | .query | .queryAddr | .revise | .retire | .watch | .abort | .agentAdmit | .agentSet | .agentQuery
  | .agentDetach | .agentFence | .unknownCommand | .completionPop _ | .clockResolutionSet _ | .directoryReset _
  | .intEnableWrite _ | .alertStatusClear _ | .alertAgentsClear _ | .agentReset _ | .powerOn | .badRequest => true

end Sys2Proof
end

