-- ==== Sys2Proof/Tests/Slice0.lean ====
section
/-! SUPPORT. The model's own tests: the checks of WellFormed, codes and layouts, one small step per command, and for every statement
a state and operands that meet its hypotheses, clause by clause. -/

namespace Sys2Proof.Tests

open Sys2Proof.Machine Sys2Proof.Safety

/- One theorem at a time: each thread of its own would reserve a stack. -/
set_option Elab.async false

/-! ### Well-formed commands -/

theorem test_write_to_int_enable_is_another_row : (Instr.registerWrite 3 0).wellFormed = false := by decide

theorem test_write_to_alert_status_is_another_row : (Instr.registerWrite 4 0).wellFormed = false := by decide

theorem test_write_to_alert_agents_is_another_row : (Instr.registerWrite 5 0).wellFormed = false := by decide

theorem test_write_to_completion_pop_is_another_row : (Instr.registerWrite 23 0).wellFormed = false := by decide

theorem test_control_write_that_resets_is_another_row : (Instr.registerWrite 2 0x100).wellFormed = false := by decide

theorem test_other_writes_are_well_formed :
    (Instr.registerWrite 2 0xFF).wellFormed = true ∧ (Instr.registerWrite 16 0x100).wellFormed = true ∧
      (Instr.registerWrite 31 0).wellFormed = true ∧ Instr.fetch.wellFormed = true := by decide

/-! ### Codes and layouts (file 11) -/

theorem test_level_codes : (List.range 4).map (fun n => Level.ofCode (BitVec.ofNat 2 n)) =
    [some .none, some .shared, none, none] := by decide

theorem test_right_codes : (List.range 4).map (fun n => Right.ofCode (BitVec.ofNat 2 n)) =
    [some .none, some .read, some .write, none] := by decide

theorem test_request_kind_codes : (List.range 9).map (fun n => RequestKind.ofCode (BitVec.ofNat 4 n)) =
    [some (.access .fetch), some (.access .share), some (.access .claim), some (.access .store), some .release, some .pin,
      some .unpin, some .withdraw, none] := by decide

theorem test_word_spells_no_command : decodeTableWord 8 1 = none ∧ State.reset.withFetchWord 8 1 = State.reset := by
  exact ⟨rfl, rfl⟩

/-! ### Small worlds: one window, in slot 5 -/

/-- A window at agent addresses 0x10000 to 0x10FFF; agent 3 may read, agent 4 may not, the others may write. -/
def fields : FieldSet :=
  { agentBase := 0x10000, size := 12, targetBase := 0x500000
    rights := Vector.ofFn fun k => if k = 3 then .read else if k = 4 then .none else .write
    cacheable := true, adviseRo := false, tag := 1, idleLimit := 10 }

/-- That window, OPEN and empty. -/
def room : Window := fields.opened 100

/-- The window with one holder. -/
def heldBy (k : Agent) (h : Holding) : Window := room.setHolding k h

/-- A recall for cause WAITER that asks agent 1 to come down to a level. -/
def asked (m : Membership) (l : Level) : RecallContext :=
  { RecallContext.blank false with
    waiter := true
    targets := put (Vector.replicate 8 none) 1 (some l)
    members := put (Vector.replicate 8 .neither) 1 m }

/-- A wait for an answer. -/
def wait (notice : NoticeStatus) (due : Bool) : Wait :=
  { retriesUsed := 0, deadline := { value := 90, due := due }, notice := notice, awaitsVerdict := false }

/-- The window with OWNER held by agent 1, who is asked for it. -/
def recalling (notice : NoticeStatus) : Window :=
  { heldBy 1 .owner with context := some (asked (.outstanding (wait notice false)) .none) }

/-- An agent in service, with the settings of power-on. -/
def serving : AgentRecord := { AgentRecord.initial with state := .online }

/-- A machine with all agents alike and one window. -/
def world (a : AgentRecord) (w : Window) : State :=
  { State.reset with
    directory := withWindow { Directory.initial with agents := Vector.replicate 8 a } 5 w
    clock := 100 }

/-- A request of a kind code, into the window. -/
def ask (kind : BitVec 4) : Request := { address := 0x10040, kind := kind, level := 0, length := 64 }

/-- The machine with a request waiting in one port. -/
def asking (s : State) (k : Agent) (r : Request) : State := { s with ports := put s.ports k (.waiting r) }

/-- A queued command with tag 7. -/
def order (kind : CommandKind) (params : Vector Word 8) : Entry := { kind := kind.code, tag := 7, params := params }

/-- The machine with one command queued. -/
def told (s : State) (e : Entry) : State := { s with commandQueue := [e] }

/-- The state after a command that answers a next state. -/
def after (c : Instr) (s : State) : State :=
  match step { s with pending := [c] } with
  | .next t => t
  | .fault _ | .refused _ => State.reset

theorem selected_asking (a : AgentRecord) (w : Window) (k : Agent) (r : Request) :
    (asking (world a w) k r).selected = some (k, r) := by
  have e : (allAgents.map fun n => (7 : Agent) + 1 + n) = [0, 1, 2, 3, 4, 5, 6, 7] := by decide
  simp only [State.selected, asking, world, State.reset, e, List.findSome?, look_put, look_replicate]
  fin_cases k <;> simp [Port.request]

theorem window_world (a : AgentRecord) (w : Window) (j : SlotId) :
    (world a w).directory.window j = if j = 5 then some w else none := by
  have h : (Directory.initial.window j) = none := by simp [Directory.window, Directory.initial]
  by_cases e : j = 5
  · simp [world, e]
  · simp only [world, window_withWindow, if_neg e]
    exact h

theorem agent_world (a : AgentRecord) (w : Window) (k : Agent) : (world a w).directory.agent k = a := by
  simp [world, withWindow, Directory.agent]

theorem matches_world (a : AgentRecord) (w : Window) {x : Addr} (h : Within w.fields x) :
    Matches (world a w).directory x 5 w := by
  refine ⟨by simp [window_world], h, fun j v hv _ => ?_⟩
  rw [window_world] at hv
  by_contra e
  simp [e] at hv

theorem service_world {a : AgentRecord} (w : Window) (k : Agent) (r : Request) (h : a.state = .online ∨ a.state = .detaching) :
    InService (asking (world a w) k r) k := by
  have e : (asking (world a w) k r).directory.agent k = a := agent_world a w k
  unfold InService
  rw [e]
  exact h

theorem found_world {a : AgentRecord} {w : Window} {kind : RequestKind} {r : Request} (k : Agent)
    (h : a.state = .online ∨ a.state = .detaching) (hk : RequestKind.ofCode r.kind = some kind)
    (hw : Within w.fields r.address) : Found (asking (world a w) k r) k r kind 5 w :=
  ⟨⟨selected_asking a w k r, hk⟩, service_world w k r h, matches_world a w hw⟩

theorem admitted_world {a : AgentRecord} {w : Window} {kind : AccessKind} {r : Request} (k : Agent)
    (h : a.state = .online ∨ a.state = .detaching) (hk : RequestKind.ofCode r.kind = some (.access kind))
    (hl : 1 ≤ r.length.toNat ∧ r.length.toNat ≤ 4096) (hw : Within w.fields r.address) (he : EndsWithin w.fields r)
    (hr : (w.right k).allows kind = true) : Admitted (asking (world a w) k r) k r kind 5 w :=
  ⟨⟨selected_asking a w k r, hk⟩, service_world w k r h, hl, matches_world a w hw, he, by
    revert hr
    cases w.right k <;> cases kind <;> simp [Right.allows, RightCovers]⟩

theorem command_world (a : AgentRecord) (w : Window) (kind : CommandKind) (p : Vector Word 8) :
    Command (told (world a w) (order kind p)) kind (order kind p) [] :=
  ⟨⟨rfl, by show 0 + 0 < 16; decide⟩, rfl, by simp [told, world, withWindow, Directory.initial]⟩

theorem names_world (a : AgentRecord) (w : Window) : Names (world a w).directory 5 5 w :=
  ⟨by simp [window_world], by simp [world, withWindow, Directory.initial]⟩

/-- Words of a command, zero but for the first, the second and the sixth. -/
def words (p0 p1 p5 : Word) : Vector Word 8 := put (put (put (Vector.replicate 8 0) 0 p0) 1 p1) 5 p5

/-! ### One step per command -/

/-- The decision in a port, where it holds a verdict. -/
def decision (s : State) (k : Agent) : Option Decision :=
  match look s.ports k with
  | .answering v => some v.decision
  | .empty | .waiting _ => none

/-- The holdings of the window in slot 5. -/
def holdings (s : State) : Option (List Holding) := (s.directory.window 5).map (·.holdings.toList)

/-- The statuses of the records in the Completion Queue. -/
def statuses (s : State) : List Status := s.directory.completions.map (·.status)

theorem test_request_accepted :
    look (after (.requestAccepted 2 0x0040_0100_1000_0100) State.reset).ports 2 =
      .waiting { address := 0x00_1000_0100, kind := 1, level := 0, length := 64 } := by decide +kernel

theorem test_fetch_passes_through :
    decision (after .fetch (asking (world serving room) 0 (ask 0))) 0 = some .grant ∧
      holdings (after .fetch (asking (world serving room) 0 (ask 0))) = some (List.replicate 8 .none) := by decide +kernel

theorem test_share_gives_shared :
    decision (after .share (asking (world serving room) 3 (ask 1))) 3 = some .grant ∧
      ((after .share (asking (world serving room) 3 (ask 1))).directory.agent 3).holdingCount = 1 := by decide +kernel

theorem test_claim_gives_owner :
    holdings (after .claim (asking (world serving room) 0 (ask 2))) =
      some [.owner, .none, .none, .none, .none, .none, .none, .none] := by decide +kernel

theorem test_claim_needs_write :
    decision (after .claim (asking (world serving room) 3 (ask 2))) 3 = some (.deny .noRight) := by decide +kernel

theorem test_store_recalls_the_owner :
    decision (after .store (asking (world serving (heldBy 1 .owner)) 0 (ask 3))) 0 = some (.retry .recalling) ∧
      (((after .store (asking (world serving (heldBy 1 .owner)) 0 (ask 3))).directory.agent 1).notices.map (·.kind)) =
        [.recall .none] := by decide +kernel

theorem test_release_lowers :
    holdings (after .release (asking (world { serving with holdingCount := 1 } (heldBy 1 .owner)) 1 (ask 4))) =
      some (List.replicate 8 .none) := by decide +kernel

theorem test_pin_counts :
    ((after .pin (asking (world serving (heldBy 1 .owner)) 1 (ask 5))).directory.window 5).map (·.pinCount 1) =
      some 1 := by decide +kernel

theorem test_unpin_without_pins_is_denied :
    decision (after .unpin (asking (world serving (heldBy 1 .owner)) 1 (ask 6))) 1 = some (.deny .notHolder) := by
  decide +kernel

theorem test_withdraw_leaves_the_list :
    ((after .withdraw (asking (world serving { room with waiters := [⟨1, .share⟩] }) 1 (ask 7))).directory.window 5).map
      (·.waiters) = some [] := by decide +kernel

theorem test_bad_request :
    decision (after .badRequest (asking (world serving room) 0 (ask 8))) 0 = some (.deny .badRequest) := by decide +kernel

theorem test_verdict_returned :
    look (after (.verdictReturned 0) (after .fetch (asking (world serving room) 0 (ask 0)))).ports 0 = .empty ∧
      (look (after (.verdictReturned 0) (after .fetch (asking (world serving room) 0 (ask 0)))).lanes 0).verdict.isSome =
        true := by decide +kernel

/-- The message example of file 11, Link messages. -/
theorem test_verdict_message :
    (Verdict.message
      { decision := .grant, target := 0x08_0000_0100, holding := .shared, uncached := false, adviseRo := false, tag := 1
        handle := 2 }) = 0x00000002_00110008_00000100 := by decide

theorem test_notice_taken_marks_it :
    let s := after .store (asking (world serving (heldBy 1 .owner)) 0 (ask 3))
    ((after (.noticeTaken 1) s).directory.agent 1).notices = [] ∧
      (after (.noticeTaken 1) s).directory.member 5 1 =
        .outstanding
          { retriesUsed := 0, deadline := { value := 116, due := false }, notice := .taken, awaitsVerdict := false } := by
  decide +kernel

/-- The recalled window with the deadline passed. -/
def late : Window := { recalling .taken with context := some (asked (.outstanding (wait .taken true)) .none) }

theorem test_recall_deadline_revokes :
    let s := after (.recallDeadline 5 1) (world { serving with holdingCount := 1 } late)
    holdings s = some (List.replicate 8 .none) ∧ (s.directory.agent 1).faultScore = 4 ∧
      s.directory.alerts.forcedRevoke = true := by decide +kernel

/-- An OPEN window with a reservation for its only waiter. -/
def reserved (due : Bool) : Window :=
  { room with waiters := [⟨1, .share⟩], reservation := some { agent := 1, expiry := { value := 101, due := due } } }

theorem test_reservation_lapse :
    ((after (.reservationLapse 5) (world serving (reserved true))).directory.window 5).map (·.waiters) = some [] := by
  decide +kernel

theorem test_idle_deadline_recalls :
    ((after (.idleDeadline 5)
      (world serving { heldBy 1 .shared with idle := some { value := 90, due := true } })).directory.window 5).map (·.state) =
      some .recalling := by decide +kernel

theorem test_clock_advance :
    (after .clockAdvance (world serving (reserved false))).clock = 101 ∧
      ((after .clockAdvance (world serving (reserved false))).directory.window 5).map (·.due) = some true := by decide +kernel

/-- The command with zero words but for these three. -/
def tell (kind : CommandKind) (p0 p1 p5 : Word) (w : Window := room) (a : AgentRecord := serving) : State :=
  told (world a w) (order kind (words p0 p1 p5))

theorem test_open :
    statuses (after .openWindow (tell .openWindow 0x20000 0xC00 0)) = [.done] ∧
      ((after .openWindow (tell .openWindow 0x20000 0xC00 0)).directory.window 0).map (·.state) = some .opened := by
  decide +kernel

theorem test_query :
    (after .query (tell .query 5 0 0)).directory.completions.map (fun r => (r.status, r.word1, r.word2)) =
      [(.done, 5, 0x10000)] := by decide +kernel

theorem test_query_addr :
    (after .queryAddr (tell .queryAddr 0x10FFF 0 0)).directory.completions.map (fun r => (r.status, r.word1)) =
      [(.done, 5)] := by decide +kernel

theorem test_revise_to_no_right_recalls :
    ((after .revise (tell .revise 0x10000 0xC00 5 (heldBy 1 .owner))).directory.window 5).map (·.state) =
      some .revising := by decide +kernel

theorem test_retire_frees :
    statuses (after .retire (tell .retire 5 0 0)) = [.done] ∧
      look (after .retire (tell .retire 5 0 0)).directory.slots 5 = { generation := 1, window := none } := by decide +kernel

/-- The window with OWNER pinned by agent 1, who is Blocked at SHARED in a recall with this cause. -/
def blockedAtShared (cause : RecallContext → RecallContext) : Window :=
  { (heldBy 1 .owner).setPins 1 1 with context := some (cause (asked .blocked .shared)) }

/-- A forced RETIRE that joins a recall, or supersedes a revision, merges its targets before it revokes. -/
theorem test_forced_retire_removes_pinned_owner_at_once :
    let joined := after .retire (tell .retire 0x10005 0 0 (blockedAtShared id))
    let superseding := after .retire (tell .retire 0x10005 0 0
      { blockedAtShared (fun c => { c with revision := true }) with
        revision := some { fields := fields, force := false, tag := 2 } })
    (joined.directory.window 5).isNone = true ∧ statuses joined = [.done] ∧ (superseding.directory.window 5).isNone = true ∧
      superseding.directory.completions.map (fun r => (r.status, r.word2)) = [(.superseded, 0), (.done, 1)] := by
  decide +kernel

/-- A Blocked OWNER that a forced REVISE revoked at SHARED may pin again once the window is OPEN (R77, R110). -/
theorem test_pin_after_forced_revocation_is_granted :
    let revised := after .revise (told (world serving (blockedAtShared id))
      (order .revise (put (put (words 0x10000 0x10C00 0x10005) 2 0x500000) 4 0xAAAA)))
    let pinned := after .pin (asking revised 1 (ask 5))
    statuses revised = [.done] ∧ holdings revised = some [.none, .shared, .none, .none, .none, .none, .none, .none] ∧
      decision pinned 1 = some .grant ∧ (pinned.directory.window 5).map (·.pinCount 1) = some 1 := by decide +kernel

theorem test_watch_parks :
    (after .watch (tell .watch 5 0x1FF 0)).directory.parked = [{ tag := 7, work := .watch 5 }] := by decide +kernel

theorem test_abort_not_found : statuses (after .abort (tell .abort 3 0 0)) = [.notFound] := by decide +kernel

theorem test_agent_admit :
    ((after .agentAdmit (tell .agentAdmit 6 0x01000000 0 room AgentRecord.initial)).directory.agent 6).state = .online := by
  decide +kernel

theorem test_agent_set :
    ((after .agentSet (tell .agentSet 6 0xFF01FF0B 0)).directory.agent 6).settings =
      { timeoutSelect := 3, retries := 2, fenceThreshold := 255, unmatched := .pass, reservationHold := 255 } := by
  decide +kernel

theorem test_agent_query : statuses (after .agentQuery (tell .agentQuery 8 0 0)) = [.badField] := by decide +kernel

theorem test_agent_detach_without_holdings :
    statuses (after .agentDetach (tell .agentDetach 1 0 0)) = [.done] ∧
      ((after .agentDetach (tell .agentDetach 1 0 0)).directory.agent 1).state = .offline := by decide +kernel

theorem test_agent_fence :
    statuses (after .agentFence (tell .agentFence 1 0 0 (heldBy 1 .owner))) = [.done] ∧
      holdings (after .agentFence (tell .agentFence 1 0 0 (heldBy 1 .owner))) = some (List.replicate 8 .none) := by
  decide +kernel

theorem test_unknown_command :
    statuses (after .unknownCommand (told (world serving room) { kind := 13, tag := 7, params := words 0 0 0 })) =
      [.unknownCommand] := by decide +kernel

theorem test_completion_pop :
    statuses (after (.completionPop 9) (after .query (tell .query 5 0 0))) = [] := by decide +kernel

theorem test_clock_resolution_set : (after (.clockResolutionSet 3) State.reset).resolution = 3 := by decide +kernel

theorem test_directory_reset :
    let s := after (.directoryReset 2) (world serving room)
    look s.directory.slots 5 = { generation := 1, window := none } ∧ s.clock = 0 ∧ s.resolution = 2 ∧
      (s.directory.agent 0).state = .offline := by decide +kernel

theorem test_int_enable_write : (after (.intEnableWrite 0xFF) State.reset).readRegister .intEnable = 0xF1 := by decide +kernel

theorem test_alert_status_clear :
    let s := after (.agentReset 3) State.reset
    (after (.alertStatusClear 0x40) s).readRegister .alertStatus = 0 ∧
      (after (.alertStatusClear 0x40) s).readRegister .alertAgents = 0x00080000 := by decide +kernel

theorem test_alert_agents_clear :
    (after (.alertAgentsClear 0x00080000) (after (.agentReset 3) State.reset)).readRegister .alertAgents = 0 := by
  decide +kernel

theorem test_register_write_queues_a_command :
    (after (.registerWrite 16 0x000C_00FF) (after (.registerWrite 8 5) State.reset)).commandQueue =
      [{ kind := 12, tag := 255, params := put (Vector.replicate 8 0) 0 5 }] := by decide +kernel

theorem test_agent_reset :
    let s := after (.agentReset 1) (asking (world serving (heldBy 1 .owner)) 1 (ask 0))
    look s.ports 1 = .empty ∧ holdings s = some (List.replicate 8 .none) ∧ (s.directory.agent 1).state = .offline := by
  decide +kernel

theorem test_power_on : after .powerOn (world serving room) = State.reset := by decide +kernel

/-! ### Hypotheses of the statements, met -/

theorem witness_StepRunsFrontCommand : State.reset.pending = [] := rfl

/-- Indices at the ends of each range of registers. -/
theorem witness_RegisterWriteByOffset :
    (8 : BitVec 5).toNat = 8 + (0 : Fin 8).val ∧ (15 : BitVec 5).toNat = 8 + (7 : Fin 8).val ∧
      State.reset.commandQueue.length < 4 ∧
      ¬ ({ State.reset with commandQueue := List.replicate 4 (order .query (words 0 0 0)) } : State).commandQueue.length < 4 ∧
      (17 ≤ (17 : BitVec 5).toNat ∧ (17 : BitVec 5).toNat ≤ 22) ∧ (17 ≤ (22 : BitVec 5).toNat ∧ (22 : BitVec 5).toNat ≤ 22) ∧
      24 ≤ (24 : BitVec 5).toNat ∧ 24 ≤ (31 : BitVec 5).toNat := by decide

theorem witness_ParamsKeptByEveryOtherEvent :
    ∃ t, exec .fetch State.reset = .next t ∧ (∀ i v, Instr.fetch ≠ .registerWrite i v) ∧
      (∀ x, Instr.fetch ≠ .directoryReset x) ∧ Instr.fetch ≠ .powerOn :=
  ⟨_, rfl, nofun, nofun, nofun⟩

theorem witness_InterruptLineIsLevel : ∃ t, exec (.alertAgentsClear 0) State.reset = .next t := ⟨_, rfl⟩

theorem witness_PopRemovesHeadRecord :
    State.reset.directory.completions = [] ∧
      ∃ r rest, (after .query (tell .query 5 0 0)).directory.completions = r :: rest :=
  ⟨rfl, { tag := 7, kind := 2, status := .done, word1 := 5, word2 := 0x10000, word3 := 0, word4 := 0, word5 := 0 }, [],
    by decide +kernel⟩

theorem witness_EnablesGateLineAlone :
    ∃ t, exec .fetch State.reset = .next t ∧ (∀ v, Instr.fetch ≠ .intEnableWrite v) ∧
      (∀ v, Instr.fetch ≠ .registerWrite 3 v) ∧ Instr.fetch ≠ .powerOn :=
  ⟨_, rfl, nofun, nofun, nofun⟩

theorem witness_VerdictReturnEmptiesPort :
    look (after .badRequest (asking State.reset 7 (ask 15))).ports 7 = .answering (plainVerdict (.deny .offline) 0) := by
  decide +kernel

/-- A notice for the window in slot 5. -/
def note (kind : NoticeKind) : Notice := { kind := kind, fields := { handle := 5, agentBase := 0x10000, size := 12 } }

/-- Agent 1 with one notice to take. -/
def noticed (kind : NoticeKind) (w : Window) : State := world { serving with notices := [note kind] } w

theorem member_world (a : AgentRecord) (w : Window) (i : SlotId) (k : Agent) (x : Wait)
    (h : (world a w).directory.member i k = .outstanding x) : ∃ c, w.context = some c ∧ look c.members k = .outstanding x := by
  unfold Directory.member Directory.context at h
  rw [window_world] at h
  by_cases e : i = 5
  · cases hc : w.context with
    | none => simp [e, hc] at h
    | some c => exact ⟨c, rfl, by simpa [e, hc] using h⟩
  · simp [e] at h

/-- After an UNPIN to 0 by agent 1, Blocked at NONE: its RECALL is queued, and its verdict is in the port. -/
def unpinning : State :=
  after .unpin
    (asking (world serving { (heldBy 1 .owner).setPins 1 1 with context := some (asked .blocked .none) }) 1 (ask 6))

/-- The RECALL that an UNPIN places reaches the agent after its verdict (R79). -/
theorem test_unpin_recall_follows_verdict :
    after (.noticeTaken 1) unpinning = unpinning ∧
      let t := after (.noticeTaken 1) (after (.verdictReturned 1) unpinning)
      (t.directory.agent 1).notices = [] ∧ (look t.lanes 1).notice = some (note (.recall .none)).message := by decide +kernel

theorem witness_NoticeTakenMarksRecall :
    (((noticed .revoked room).directory.agent 1).notices = [note .revoked] ∧
      ((noticed .revoked room).directory.agent 1).backlog = [] ∧
      (∀ i x, (noticed .revoked room).directory.member i 1 = .outstanding x → x.notice ≠ .unsent)) ∧
      ((noticed (.recall .none) (recalling .held)).directory.agent 1).notices = [note (.recall .none)] ∧
      (∀ i x, (noticed (.recall .none) (recalling .held)).directory.member i 1 = .outstanding x → x.notice ≠ .unsent) ∧
      (note (.recall .none)).slot = 5 ∧
      (noticed (.recall .none) (recalling .held)).directory.window 5 = some (recalling .held) ∧
      look (asked (.outstanding (wait .held false)) .none).members 1 = .outstanding (wait .held false) ∧
      (wait .held false).awaitsVerdict = false ∧
      (unpinning.directory.agent 1).notices = [note (.recall .none)] ∧
      BeforeVerdict unpinning.directory 1 (note (.recall .none)) := by
  refine ⟨⟨by rw [noticed, agent_world], by rw [noticed, agent_world]; rfl, fun i x h => ?_⟩, by rw [noticed, agent_world],
    fun i x h => ?_, by decide, by simp [noticed, window_world], by decide, rfl, by decide +kernel, by decide,
    { wait .held false with deadline := { value := 116, due := false }, awaitsVerdict := true }, by decide +kernel, rfl⟩
  · obtain ⟨c, hc, _⟩ := member_world _ _ _ _ _ h
    cases hc
  · obtain ⟨c, hc, hm⟩ := member_world _ _ _ _ _ h
    cases hc
    have : x = wait .held false := by
      have e : look (asked (.outstanding (wait .held false)) .none).members 1 = .outstanding (wait .held false) := by decide
      exact Membership.outstanding.inj (hm.symm.trans e)
    rw [this]
    decide

/-- A notice for the window in slot 6. -/
def other : Notice := { kind := .revoked, fields := { handle := 6, agentBase := 0x20000, size := 12 } }

theorem witness_FreedPlaceIsFilled :
    (let a := (world { serving with notices := [other], backlog := [(note .revoked).fields] } room).directory.agent 1
     a.notices = [other] ∧ ([] : List Notice).length < 4 ∧ (note .revoked).fields ∈ a.backlog ∧ BacklogKeyed a ∧
       ∀ g ∈ a.backlog, g.slot < (note .revoked).fields.slot → False) ∧
      let s := world { serving with notices := [other] } (recalling .unsent)
      (s.directory.agent 1).notices = [other] ∧ (s.directory.agent 1).backlog = [] ∧
        s.directory.window 5 = some (recalling .unsent) ∧
        look (asked (.outstanding (wait .unsent false)) .none).members 1 = .outstanding (wait .unsent false) ∧
        look (asked (.outstanding (wait .unsent false)) .none).targets 1 = some .none ∧ other.slot ≠ 5 ∧
        (∀ d, ¬ BeforeVerdict d 1 other) ∧
        ∀ j, j < 5 → s.directory.unsent j 1 = true → False := by
  refine ⟨?_, ?_⟩
  · simp only [agent_world]
    refine ⟨trivial, by decide, by simp, by simp [BacklogKeyed], fun g hg h => ?_⟩
    simp only [List.mem_singleton] at hg
    rw [hg] at h
    exact lt_irrefl _ h
  · refine ⟨by simp [agent_world], by simp [agent_world]; rfl, by simp [window_world], by decide, by decide, by decide,
      fun _ h => h.1 rfl, fun j hj h => ?_⟩
    obtain ⟨x, hx, _⟩ := unsent_iff.1 h
    have e : j ≠ 5 := ne_of_lt hj
    simp [Directory.member, Directory.context, window_world, e] at hx

theorem witness_AgentStateStage :
    ((asking (world AgentRecord.initial room) 0 (ask 0)).selected = some (0, ask 0) ∧
      ((asking (world AgentRecord.initial room) 0 (ask 0)).directory.agent 0).state = .offline) ∧
      ((asking (world { serving with state := .fenced } room) 7 (ask 15)).selected = some (7, ask 15) ∧
        ((asking (world { serving with state := .fenced } room) 7 (ask 15)).directory.agent 7).state = .fenced) ∧
      InService (asking (world serving room) 0 (ask 0)) 0 :=
  ⟨⟨selected_asking _ _ _ _, by decide +kernel⟩, ⟨selected_asking _ _ _ _, by decide +kernel⟩,
    service_world room 0 (ask 0) (.inl rfl)⟩

theorem witness_FormStage :
    (∀ r, (asking (world serving room) 0 r).selected = some (0, r) ∧ InService (asking (world serving room) 0 r) 0) ∧
      RequestKind.ofCode (ask 8).kind = none ∧ RequestKind.ofCode (ask 15).kind = none ∧
      (RequestKind.ofCode (ask 0).kind = some (.access .fetch) ∧ ¬ LengthNamed { ask 0 with length := 0 } ∧
        ¬ LengthNamed { ask 0 with length := 4097 } ∧ LengthNamed { ask 0 with length := 1 } ∧
        LengthNamed { ask 0 with length := 4096 }) ∧
      RequestKind.ofCode (ask 4).kind = some .release ∧ ({ ask 4 with level := 2 } : Request).level ≠ 0 ∧
      ({ ask 4 with level := 2 } : Request).level ≠ 1 := by
  refine ⟨fun r => ⟨selected_asking _ _ _ _, service_world room 0 r (.inl rfl)⟩, by decide, by decide, ?_, by decide,
    by decide, by decide⟩
  unfold LengthNamed
  decide

theorem unmatched_world (a : AgentRecord) (w : Window) {x : Addr} (h : ¬ Within w.fields x) :
    Unmatched (world a w).directory x := by
  intro j v hv
  rw [window_world] at hv
  by_cases e : j = 5
  · simp [e] at hv
    exact hv ▸ h
  · simp [e] at hv

/-- The first address past the window, and the last before it. -/
theorem witness_MatchStageWithoutWindow :
    (∀ r, RequestKind.ofCode r.kind = some (.access .store) → TakenNext (asking (world serving room) 0 r) 0 r (.access .store)) ∧
      InService (asking (world serving room) 0 (ask 3)) 0 ∧ Unmatched (world serving room).directory 0x11000 ∧
      Unmatched (world serving room).directory 0xFFFF ∧ LengthNamed (ask 3) ∧
      (world { serving with settings := { serving.settings with unmatched := .pass } } room).directory.agent 0 =
        { serving with settings := { serving.settings with unmatched := .pass } } :=
  ⟨fun r h => ⟨selected_asking _ _ _ _, h⟩, service_world room 0 _ (.inl rfl),
    unmatched_world _ _ (by unfold Within; decide), unmatched_world _ _ (by unfold Within; decide),
    (by decide : 1 ≤ (ask 3).length.toNat ∧ (ask 3).length.toNat ≤ 4096), agent_world _ _ _⟩

/-- Requests that end at the window's last address and one byte past it. -/
theorem witness_ExtentStage :
    (∀ r, RequestKind.ofCode r.kind = some (.access .fetch) → Within room.fields r.address →
      TakenNext (asking (world serving room) 0 r) 0 r (.access .fetch) ∧ InService (asking (world serving room) 0 r) 0 ∧
        Matches (asking (world serving room) 0 r).directory r.address 5 room) ∧
      Within room.fields (0x10FC0 : Addr) ∧
      EndsWithin room.fields { ask 0 with address := 0x10FC0, length := 64 } ∧
      ¬ EndsWithin room.fields { ask 0 with address := 0x10FC0, length := 65 } := by
  refine ⟨fun r hk hw => ⟨⟨selected_asking _ _ _ _, hk⟩, service_world room 0 r (.inl rfl), matches_world _ _ hw⟩, ?_⟩
  unfold Within EndsWithin
  decide

/-- A request of this kind passes every stage up to the Right stage. -/
theorem admitted_ask {a : AgentRecord} {w : Window} {kind : AccessKind} (k : Agent)
    (h : a.state = .online ∨ a.state = .detaching) (hf : w.fields = fields) (hr : (w.right k).allows kind = true) :
    Admitted (asking (world a w) k (ask kind.code)) k (ask kind.code) kind 5 w := by
  refine admitted_world k h ?_ (by cases kind <;> decide) ?_ ?_ hr
  · cases kind <;> rfl
  · rw [hf]; unfold Within; cases kind <;> decide
  · rw [hf]; unfold EndsWithin; cases kind <;> decide

theorem found_ask {a : AgentRecord} {w : Window} {kind : RequestKind} {c : BitVec 4} (k : Agent)
    (h : a.state = .online ∨ a.state = .detaching) (hk : RequestKind.ofCode c = some kind) (hf : w.fields = fields) :
    Found (asking (world a w) k (ask c)) k (ask c) kind 5 w :=
  found_world k h hk (by rw [hf]; unfold Within; exact ⟨by show 65536 ≤ 65600; decide, by show 65600 < 65536 + 4096; decide⟩)

theorem online_ask {w : Window} (k : Agent) (r : Request) : Online (asking (world serving w) k r) k := by
  have e : (asking (world serving w) k r).directory.agent k = serving := agent_world serving w k
  unfold Online
  rw [e]
  rfl

theorem witness_RightStage :
    Found (asking (world serving room) 4 (ask 0)) 4 (ask 0) (.access .fetch) 5 room ∧ LengthNamed (ask 0) ∧
      EndsWithin room.fields (ask 0) ∧ ¬ RightCovers (room.right 4) .fetch ∧ ¬ RightCovers (room.right 3) .store ∧
      RightCovers (room.right 3) .share := by
  refine ⟨found_ask 4 (.inl rfl) rfl rfl, ?_, ?_, ?_⟩
  · unfold LengthNamed; decide
  · unfold EndsWithin; decide
  · simp only [← allows_iff]; decide

/-- An agent that is DETACHING. -/
def leaving : AgentRecord := { serving with state := .detaching, detach := some { tag := 3, forced := 0 } }

theorem witness_DetachingAgentIsLimited :
    ((asking (world leaving room) 0 (ask 1)).directory.agent 0).state = .detaching ∧
      Admitted (asking (world leaving room) 0 (ask 1)) 0 (ask 1) .share 5 room ∧
      ((AccessKind.share.decided room.fields.cacheable).class (room.holding 0)).grows = true ∧
      Admitted (asking (world leaving (heldBy 1 .owner)) 0 (ask 0)) 0 (ask 0) .fetch 5 (heldBy 1 .owner) ∧
      AccessKind.fetch.class ((heldBy 1 .owner).holding 0) = .neither ∧ ¬ NoConflict (heldBy 1 .owner) 0 .fetch ∧
      (heldBy 1 .owner).state = .opened ∧
      Found (asking (world leaving room) 0 (ask 5)) 0 (ask 5) .pin 5 room :=
  ⟨by decide +kernel, admitted_ask (kind := .share) 0 (.inr rfl) rfl (by decide), by decide,
    admitted_ask (kind := .fetch) 0 (.inr rfl) rfl (by decide), by decide,
    conflicting_iff.1 (by decide),
    by decide, found_ask 0 (.inr rfl) rfl rfl⟩

/-- The recalled window with another cause. -/
def recalledFor (cause : RecallContext → RecallContext) : Window :=
  { heldBy 1 .owner with context := some (cause (asked (.outstanding (wait .held false)) .none)) }

theorem witness_RevisingAndRetiringTurnAway :
    let revising := recalledFor fun c => { c with revision := true }
    let retiring := recalledFor fun c => { c with retire := true }
    revising.state = .revising ∧ retiring.state = .retiring ∧
      AccessKind.store.class (retiring.holding 0) ≠ .holderAccess ∧
      (∀ w, w = revising ∨ w = retiring →
        Admitted (asking (world serving w) 0 (ask 3)) 0 (ask 3) .store 5 w ∧ Online (asking (world serving w) 0 (ask 3)) 0 ∧
          Found (asking (world serving w) 0 (ask 5)) 0 (ask 5) .pin 5 w ∧
          Found (asking (world serving w) 0 (ask 7)) 0 (ask 7) .withdraw 5 w ∧
          Admitted (asking (world leaving w) 0 (ask 3)) 0 (ask 3) .store 5 w ∧
          Found (asking (world leaving w) 0 (ask 7)) 0 (ask 7) .withdraw 5 w) ∧
      AccessKind.store.class (revising.holding 0) = .neither ∧ AccessKind.store.class (retiring.holding 0) = .neither := by
  refine ⟨by decide, by decide, by decide, ?_, by decide, by decide⟩
  rintro w (rfl | rfl)
  all_goals
    exact ⟨admitted_ask (kind := .store) 0 (.inl rfl) rfl (by decide), online_ask 0 _, found_ask 0 (.inl rfl) rfl rfl,
      found_ask 0 (.inl rfl) rfl rfl, admitted_ask (kind := .store) 0 (.inr rfl) rfl (by decide),
      found_ask 0 (.inr rfl) rfl rfl⟩

theorem noConflict_of {w : Window} {k : Agent} {kind : AccessKind} (h : w.conflicting k kind = false) : NoConflict w k kind :=
  conflicting_eq_false_iff.1 h

theorem conflict_of {w : Window} {k : Agent} {kind : AccessKind} (h : w.conflicting k kind = true) : ¬ NoConflict w k kind :=
  conflicting_iff.1 h

/-- A watch of agent 0's reads and writes. -/
def watched (w : Window) : Window := { w with watch := some { agents := 1, reads := true, writes := true, tag := 9 } }

theorem witness_AccessKeepsHolding :
    (Admitted (asking (world serving (heldBy 0 .owner)) 0 (ask 3)) 0 (ask 3) .store 5 (heldBy 0 .owner) ∧
      Unwatched (heldBy 0 .owner) 0 .store ∧ AccessKind.store.class ((heldBy 0 .owner).holding 0) = .holderAccess) ∧
      (Admitted (asking (world serving room) 0 (ask 0)) 0 (ask 0) .fetch 5 room ∧
        AccessKind.fetch.class (room.holding 0) = .neither ∧ NoConflict room 0 .fetch ∧ room.state = .opened ∧
        room.head ≠ some 0) ∧
      Admitted (asking (world serving (watched (heldBy 0 .owner))) 0 (ask 3)) 0 (ask 3) .store 5 (watched (heldBy 0 .owner)) ∧
      ¬ Unwatched (watched (heldBy 0 .owner)) 0 .store :=
  ⟨⟨admitted_ask (kind := .store) 0 (.inl rfl) rfl (by decide), fun _ h => (nomatch h), by decide⟩,
    ⟨admitted_ask (kind := .fetch) 0 (.inl rfl) rfl (by decide), by decide, noConflict_of (by decide), by decide, by decide⟩,
    admitted_ask (kind := .store) 0 (.inl rfl) rfl (by decide),
    fun h => by simpa using h _ rfl⟩

theorem witness_ShareAndClaimRaiseHolding :
    (Admitted (asking (world serving room) 0 (ask 1)) 0 (ask 1) .share 5 room ∧
      Online (asking (world serving room) 0 (ask 1)) 0 ∧ NoConflict room 0 .share ∧
      room.holding 0 = .none ∧ room.fields.cacheable = true ∧ room.context = none ∧ room.waiters = [] ∧
      room.reservation = none) ∧
      Admitted (asking (world serving (heldBy 0 .shared)) 0 (ask 2)) 0 (ask 2) .claim 5 (heldBy 0 .shared) ∧
      NoConflict (heldBy 0 .shared) 0 .claim ∧ (heldBy 0 .shared).holding 0 ≠ .owner ∧
      Admitted (asking (world serving (watched room)) 0 (ask 1)) 0 (ask 1) .share 5 (watched room) ∧
      NoConflict (watched room) 0 .share ∧ ¬ Unwatched (watched room) 0 .share :=
  ⟨⟨admitted_ask (kind := .share) 0 (.inl rfl) rfl (by decide), online_ask 0 _, noConflict_of (by decide), by decide, rfl, rfl,
      rfl, rfl⟩,
    admitted_ask (kind := .claim) 0 (.inl rfl) rfl (by decide), noConflict_of (by decide), by decide,
    admitted_ask (kind := .share) 0 (.inl rfl) rfl (by decide), noConflict_of (by decide), fun h => by simpa using h _ rfl⟩

/-- An OPEN window with waiters. -/
def queue (l : List Waiter) (w : Window := room) : Window := { w with waiters := l }

theorem witness_HeadIsServed :
    (Admitted (asking (world serving (queue [⟨0, .share⟩, ⟨1, .share⟩])) 0 (ask 1)) 0 (ask 1) .share 5
        (queue [⟨0, .share⟩, ⟨1, .share⟩]) ∧
      AccessKind.share.class ((queue [⟨0, .share⟩, ⟨1, .share⟩]).holding 0) ≠ .holderAccess ∧
      NoConflict (queue [⟨0, .share⟩, ⟨1, .share⟩]) 0 .share) ∧
      Admitted (asking (world serving (queue [⟨0, .share⟩])) 0 (ask 1)) 0 (ask 1) .share 5 (queue [⟨0, .share⟩]) ∧
      Admitted (asking (world serving (watched (queue [⟨0, .share⟩]))) 0 (ask 1)) 0 (ask 1) .share 5
        (watched (queue [⟨0, .share⟩])) ∧
      NoConflict (watched (queue [⟨0, .share⟩])) 0 .share ∧ ¬ Unwatched (watched (queue [⟨0, .share⟩])) 0 .share :=
  ⟨⟨admitted_ask (kind := .share) 0 (.inl rfl) rfl (by decide), by decide, noConflict_of (by decide)⟩,
    admitted_ask (kind := .share) 0 (.inl rfl) rfl (by decide), admitted_ask (kind := .share) 0 (.inl rfl) rfl (by decide),
    noConflict_of (by decide), fun h => by simpa using h _ rfl⟩

/-- A window whose context stands, one with a reservation, one whose waiter lost its right, one whose head is free to go and one
whose head must wait for the owner. -/
theorem witness_HeadServiceServesFirstEntitled :
    (world serving (recalling .held)).directory.window 5 = some (recalling .held) ∧ (recalling .held).context ≠ none ∧
      (reserved false).reservation ≠ none ∧
      (∀ y ∈ (queue [⟨4, .share⟩]).waiters, ¬ RightCovers ((queue [⟨4, .share⟩]).right y.agent) y.wanted) ∧
      (queue [⟨4, .share⟩, ⟨0, .claim⟩]).waiters = [⟨4, .share⟩] ++ ⟨0, .claim⟩ :: [] ∧
      RightCovers (room.right 0) .claim ∧ NoConflict (queue [⟨4, .share⟩, ⟨0, .claim⟩]) 0 .claim ∧
      ¬ NoConflict (queue [⟨4, .share⟩, ⟨0, .claim⟩] (heldBy 1 .owner)) 0 .claim := by
  refine ⟨by simp [window_world], by decide, by decide, ?_, rfl, ?_, noConflict_of (by decide), conflict_of (by decide)⟩
  · simp only [← allows_iff]; decide
  · rw [← allows_iff]; decide

theorem witness_ConflictStartsRecall :
    (Admitted (asking (world serving (heldBy 1 .owner)) 0 (ask 0)) 0 (ask 0) .fetch 5 (heldBy 1 .owner) ∧
      (heldBy 1 .owner).context = none ∧ (heldBy 1 .owner).waiters = [] ∧ (heldBy 1 .owner).reservation = none ∧
      ¬ NoConflict (heldBy 1 .owner) 0 .fetch ∧
      AccessKind.fetch.class ((heldBy 1 .owner).holding 0) ≠ .holderAccess) ∧
      Admitted (asking (world serving (queue [⟨0, .claim⟩] (heldBy 1 .owner))) 0 (ask 2)) 0 (ask 2) .claim 5
        (queue [⟨0, .claim⟩] (heldBy 1 .owner)) :=
  ⟨⟨admitted_ask (kind := .fetch) 0 (.inl rfl) rfl (by decide), rfl, rfl, rfl, conflict_of (by decide), by decide⟩,
    admitted_ask (kind := .claim) 0 (.inl rfl) rfl (by decide)⟩

theorem witness_RequestJoinsWaiterList :
    (Admitted (asking (world serving (queue [⟨1, .share⟩])) 0 (ask 1)) 0 (ask 1) .share 5 (queue [⟨1, .share⟩]) ∧
      (queue [⟨1, .share⟩]).head ≠ some 0 ∧ (queue [⟨1, .share⟩]).state = .opened ∧ (queue [⟨1, .share⟩]).waiters ≠ []) ∧
      (Admitted (asking (world serving (recalling .held)) 0 (ask 1)) 0 (ask 1) .share 5 (recalling .held) ∧
        (recalling .held).state = .recalling ∧ (recalling .held).head ≠ some 0) ∧
      Admitted (asking (world serving (queue [⟨0, .share⟩] (recalling .held))) 0 (ask 1)) 0 (ask 1) .share 5
        (queue [⟨0, .share⟩] (recalling .held)) ∧
      (queue [⟨0, .share⟩] (recalling .held)).head = some 0 ∧ (queue [⟨0, .share⟩] (recalling .held)).state = .recalling :=
  ⟨⟨admitted_ask (kind := .share) 0 (.inl rfl) rfl (by decide), by decide, by decide, by decide⟩,
    ⟨admitted_ask (kind := .share) 0 (.inl rfl) rfl (by decide), by decide, by decide⟩,
    admitted_ask (kind := .share) 0 (.inl rfl) rfl (by decide), by decide, by decide⟩

/-- No detach ends with a fall to a level where the agent is not DETACHING, or holds on elsewhere. -/
theorem goesOn_world {a : AgentRecord} (w : Window) (k : Agent) (l : Level) (h : a.state = .online ∨ a.holdingCount ≠ 1) :
    DetachGoesOn (world a w) k l := by
  unfold DetachGoesOn
  rw [agent_world]
  intro hs _
  rcases h with h | h
  · rw [h] at hs
    cases hs
  · exact h

theorem witness_ReleaseLowersHolding :
    (Found (asking (world serving room) 1 (ask 4)) 1 (ask 4) .release 5 room ∧ (ask 4).level = Level.none.code ∧
      Level.none.holding.rank ≥ (room.holding 1).rank) ∧
      (∀ a, a = serving ∨ a = { leaving with holdingCount := 2 } →
        Found (asking (world a (heldBy 1 .owner)) 1 (ask 4)) 1 (ask 4) .release 5 (heldBy 1 .owner) ∧
          DetachGoesOn (asking (world a (heldBy 1 .owner)) 1 (ask 4)) 1 .none) ∧
      Level.none.holding.rank < ((heldBy 1 .owner).holding 1).rank ∧ (heldBy 1 .owner).context = none := by
  refine ⟨⟨found_ask 1 (.inl rfl) rfl rfl, rfl, by decide⟩, ?_, by decide, rfl⟩
  rintro a (rfl | rfl)
  · exact ⟨found_ask 1 (.inl rfl) rfl rfl, goesOn_world _ _ _ (.inl rfl)⟩
  · exact ⟨found_ask 1 (.inr rfl) rfl rfl, goesOn_world _ _ _ (.inr (by decide))⟩

/-- A window that agents 1 and 2 share, both asked for it; agent 2 is in the set given. -/
def shared (m : Membership) : Window :=
  { (heldBy 1 .shared).setHolding 2 .shared with
    context := some
      { asked (.outstanding (wait .held false)) .none with
        targets := put (put (Vector.replicate 8 none) 1 (some .none)) 2 (some .none)
        members := put (put (Vector.replicate 8 .neither) 1 (.outstanding (wait .held false))) 2 m } }

theorem nothingWaits {a : AgentRecord} {w : Window} (k : Agent) (h : a.backlog = [] := by rfl) :
    NothingWaitsFor (world a w).directory k 5 := by
  refine ⟨by rw [agent_world]; exact h, fun j hj => ?_⟩
  simp [Directory.unsent, Directory.member, Directory.context, window_world, hj]

theorem witness_ReleaseAnswersRecall :
    (Found (asking (world serving (shared .blocked)) 1 (ask 4)) 1 (ask 4) .release 5 (shared .blocked) ∧
      Found (asking (world serving (shared .blocked)) 2 (ask 4)) 2 (ask 4) .release 5 (shared .blocked) ∧
      DetachGoesOn (asking (world serving (shared .blocked)) 1 (ask 4)) 1 .none ∧
      NothingWaitsFor (asking (world serving (shared .blocked)) 1 (ask 4)).directory 1 5) ∧
      ∃ c, (shared .blocked).context = some c ∧ InSet c 1 ∧ InSet c 2 ∧ look c.targets 1 = some .none ∧
        look c.targets 2 = some .none ∧ look c.members 2 = .blocked ∧
        Level.none.holding.rank < ((shared .blocked).holding 1).rank := by
  refine ⟨⟨found_ask 1 (.inl rfl) rfl rfl, found_ask 2 (.inl rfl) rfl rfl, goesOn_world _ _ _ (.inl rfl),
    nothingWaits 1⟩, _, rfl, ?_⟩
  unfold InSet
  decide

theorem lastAnswer_world {w : Window} {c : RecallContext} (hf : w.fields = fields) (hc : w.context = some c)
    (hh : w.holding 1 = .owner) (hm : look c.members 1 ≠ .neither) (ht : look c.targets 1 = some .none)
    (hl : ∀ j, j ≠ 1 → look c.members j = .neither) :
    LastAnswer (asking (world serving w) 1 (ask 4)) 1 (ask 4) 5 w c .none :=
  ⟨found_ask 1 (.inl rfl) rfl hf, goesOn_world _ _ _ (.inl rfl), rfl, by rw [hh]; decide, hc, hm, ⟨.none, ht, le_rfl⟩,
    fun j hj h => h (hl j hj), nothingWaits 1, fun j _ => by
      have e : (asking (world serving w) 1 (ask 4)).directory.agent j = serving := agent_world serving w j
      rw [e]
      rfl⟩

/-- A window whose one holder, agent 1, has pinned it, and is asked for it or not. -/
def pinnedBy (n : BitVec 4) (w : Window := heldBy 1 .owner) : Window := w.setPins 1 n

/-- The same, Blocked in a recall. -/
def blocked : Window := { pinnedBy 1 with context := some (asked .blocked .none) }

/-- The three endings: a recall for a waiter, one with a pending revision, one with a RETIRE; and an answer by a Blocked agent. -/
theorem witness_LastReleaseCompletesRecall :
    (∃ c, LastAnswer (asking (world serving (recalling .taken)) 1 (ask 4)) 1 (ask 4) 5 (recalling .taken) c .none ∧
      c.retire = false ∧ c.revision = false) ∧
      (∃ c, LastAnswer (asking (world serving blocked) 1 (ask 4)) 1 (ask 4) 5 blocked c .none ∧ look c.members 1 = .blocked ∧
        c.retire = false ∧ c.revision = false) ∧
      (∃ w c p, LastAnswer (asking (world serving w) 1 (ask 4)) 1 (ask 4) 5 w c .none ∧ c.retire = false ∧
        c.revision = true ∧ w.revision = some p) ∧
      ∃ w c t, LastAnswer (asking (world serving w) 1 (ask 4)) 1 (ask 4) 5 w c .none ∧ c.retire = true ∧
        w.retireTag = some t :=
  ⟨⟨_, lastAnswer_world rfl rfl (by decide) (by decide) (by decide) (by decide), rfl, rfl⟩,
    ⟨_, lastAnswer_world rfl rfl (by decide) (by decide) (by decide) (by decide), by decide, rfl, rfl⟩,
    ⟨{ recalledFor fun c => { c with revision := true } with
        revision := some { fields := fields, force := false, tag := 2 } }, _, _,
      lastAnswer_world rfl rfl (by decide) (by decide) (by decide) (by decide), rfl, rfl, rfl⟩,
    ⟨{ recalledFor fun c => { c with retire := true } with retireTag := some 2 }, _, _,
      lastAnswer_world rfl rfl (by decide) (by decide) (by decide) (by decide), rfl, rfl⟩⟩

theorem witness_PinAndUnpinCount :
    (∀ w, w.fields = fields → Found (asking (world serving w) 1 (ask 5)) 1 (ask 5) .pin 5 w ∧
      Found (asking (world serving w) 1 (ask 6)) 1 (ask 6) .unpin 5 w ∧ Online (asking (world serving w) 1 (ask 5)) 1) ∧
      room.holding 1 = .none ∧ room.state = .opened ∧
      (look (asked (.outstanding (wait .held false)) .none).members 1 = .outstanding (wait .held false) ∧
        (recalling .held).state = .recalling ∧ (recalling .held).holding 1 ≠ .none) ∧
      (pinnedBy 15).pinCount 1 = 15 ∧ (pinnedBy 15).context = none ∧ (pinnedBy 14).pinCount 1 ≠ 15 ∧
      (heldBy 1 .owner).pinCount 1 = 0 ∧ (pinnedBy 2).pinCount 1 ≠ 0 ∧ blocked.pinCount 1 = 1 ∧
      look (asked .blocked .none).members 1 = .blocked ∧ look (asked .blocked .none).targets 1 = some .none ∧
      blocked.context = some (asked .blocked .none) := by
  refine ⟨fun w h => ⟨found_ask 1 (.inl rfl) rfl h, found_ask 1 (.inl rfl) rfl h, online_ask 1 _⟩, ?_⟩
  decide

theorem witness_WithdrawLeavesList :
    (∀ w, w.fields = fields → Found (asking (world serving w) 1 (ask 7)) 1 (ask 7) .withdraw 5 w) ∧
      (∀ w, w = room ∨ w = reserved false ∨ w = queue [⟨0, .share⟩, ⟨1, .share⟩] →
        w.state ≠ .retiring ∧ WaitersOnce w ∧ ReservationForHead w) ∧
      (∀ x ∈ room.waiters, x.agent ≠ 1) ∧ (queue [⟨0, .share⟩, ⟨1, .share⟩]).head ≠ some 1 ∧
      (reserved false).context = none ∧ (reserved false).waiters = ⟨1, .share⟩ :: [] := by
  refine ⟨fun w h => found_ask 1 (.inl rfl) rfl h, ?_, by decide, by decide, rfl, rfl⟩
  unfold WaitersOnce ReservationForHead
  rintro w (rfl | rfl | rfl) <;> decide

/-- The recalled window with its deadline passed, after some retries. -/
def overdue (notice : NoticeStatus) : Window := { recalling notice with context := some (asked (.outstanding (wait notice true)) .none) }

theorem passing_world (a : AgentRecord) (notice : NoticeStatus) :
    Passing (world a (overdue notice)) 5 1 (overdue notice) (asked (.outstanding (wait notice true)) .none) (wait notice true)
      .none :=
  ⟨by simp [window_world], rfl, by cases notice <;> decide, rfl, by cases notice <;> decide, by cases notice <;> decide⟩

/-- An agent with retries and a threshold. -/
def patient (retries : BitVec 2) (threshold score : BitVec 8) : AgentRecord :=
  { serving with
    holdingCount := 1, faultScore := score
    settings := { serving.settings with retries := retries, fenceThreshold := threshold } }

theorem witness_DeadlineRetries :
    (∀ notice, Passing (world (patient 2 5 3) (overdue notice)) 5 1 (overdue notice)
      (asked (.outstanding (wait notice true)) .none) (wait notice true) .none) ∧
      (wait .taken true).retriesUsed < (patient 2 5 3).settings.retries.toNat ∧ BelowThreshold (patient 2 5 3) 1 ∧
      BelowThreshold (patient 2 0 255) 1 ∧
      (world (patient 2 5 3) (overdue .taken)).directory.agent 1 = patient 2 5 3 := by
  refine ⟨passing_world _, by decide, ?_, ?_, agent_world _ _ _⟩ <;> unfold BelowThreshold scoreAfter <;> decide

/-- The shared window with agent 1 overdue. -/
def overdueShared : Window :=
  { shared (.outstanding (wait .held false)) with
    context := (shared (.outstanding (wait .held false))).context.map fun c => c.setMember 1 (.outstanding (wait .held true)) }

theorem witness_DeadlineRevokes :
    (∃ c, Passing (world (patient 0 5 0) overdueShared) 5 1 overdueShared c (wait .held true) .none ∧ InSet c 2) ∧
      ¬ (wait .held true).retriesUsed < (patient 0 5 0).settings.retries.toNat ∧ BelowThreshold (patient 0 5 0) 4 ∧
      DetachGoesOn (world (patient 0 5 0) overdueShared) 1 .none ∧
      DetachGoesOn (world { leaving with holdingCount := 2 } overdueShared) 1 .none := by
  refine ⟨⟨_, ⟨by simp [window_world], rfl, by decide, rfl, by decide, by decide⟩, ?_⟩, by decide, ?_,
    goesOn_world _ _ _ (.inl rfl), goesOn_world _ _ _ (.inr (by decide))⟩
  · unfold InSet; decide
  · unfold BelowThreshold scoreAfter; decide

theorem witness_ThresholdFencesAgent :
    (∀ a notice, Passing (world a (overdue notice)) 5 1 (overdue notice) (asked (.outstanding (wait notice true)) .none)
      (wait notice true) .none) ∧
      ¬ BelowThreshold (patient 2 4 3) 1 ∧ ¬ BelowThreshold (patient 0 4 0) 4 ∧ ¬ BelowThreshold (patient 0 255 253) 4 := by
  refine ⟨passing_world, ?_⟩
  unfold BelowThreshold scoreAfter
  decide

theorem witness_ReservationLapses :
    (world serving (reserved true)).directory.window 5 = some (reserved true) ∧
      (reserved true).reservation = some { agent := 1, expiry := { value := 101, due := true } } :=
  ⟨by simp [window_world], rfl⟩

/-- The window with its idle deadline passed. -/
def slept (w : Window) : Window := { w with idle := some { value := 90, due := true } }

theorem witness_IdleDeadlinePasses :
    (∀ w, (world serving (slept w)).directory.window 5 = some (slept w)) ∧
      ((slept (heldBy 1 .shared)).context = none ∧ (slept (heldBy 1 .shared)).reservation = none ∧
        (slept (heldBy 1 .shared)).waiters = [] ∧ (slept (heldBy 1 .shared)).holding 1 ≠ .none ∧
        (slept (heldBy 1 .shared)).pinCount 1 = 0) ∧
      (slept (recalling .held)).context ≠ none ∧ (slept (reserved false)).reservation ≠ none ∧
      (slept (queue [⟨0, .share⟩])).waiters ≠ [] ∧
      ∀ k, (slept (pinnedBy 15)).holding k ≠ .none → (slept (pinnedBy 15)).pinCount k ≠ 0 :=
  ⟨fun w => by simp [window_world], by decide, by decide, by decide, by decide, by decide⟩

theorem witness_ClockAdvanceMakesTicksPass :
    NothingDue (world serving (reserved false)).directory ∧ ¬ NothingDue (world serving (reserved true)).directory := by
  refine ⟨fun i w hw => ?_, fun h => ?_⟩
  · rw [window_world] at hw
    by_cases e : i = 5
    · simp [e] at hw
      subst hw
      refine ⟨?_, by decide, nofun⟩
      decide
    · simp [e] at hw
  · have := (h 5 (reserved true) (by simp [window_world])).2.1 _ rfl
    simp at this

theorem oldest_world (w : Window) (e : Entry) : Oldest (told (world serving w) e) e [] :=
  ⟨rfl, by show 0 + 0 < 16; decide⟩

/-- The machine with one command parked. -/
def parking (p : Parked) (s : State) : State := { s with directory := { s.directory with parked := [p] } }

/-- With one command parked, a command with another tag passes the checks, and one with the same tag does not. -/
theorem witness_ChecksBeforeEveryCommand :
    (∀ c : BitVec 4, Oldest (told (world serving room) { kind := c, tag := 7, params := words 0 0 0 })
      { kind := c, tag := 7, params := words 0 0 0 } []) ∧
      13 ≤ (13 : BitVec 4).toNat ∧ 13 ≤ (15 : BitVec 4).toNat ∧
      Oldest (parking { tag := 7, work := .watch 5 } (tell .abort 7 0 0)) (order .abort (words 7 0 0)) [] ∧
      ∃ p ∈ (parking { tag := 7, work := .watch 5 } (tell .abort 7 0 0)).directory.parked, p.tag = (7 : Tag) :=
  ⟨fun c => oldest_world room _, by decide, by decide, ⟨rfl, by show 1 + 0 < 16; decide⟩, _, List.mem_singleton.2 rfl, rfl⟩

theorem witness_ParamAndRecordLayouts : WaitersOnce (queue ((List.finRange 8).map fun k => ⟨k, .share⟩)) := by
  unfold WaitersOnce; decide

/-- A field set of this Size and base. -/
def supplied (base low1 target rights : Word) : Vector Word 8 :=
  put (put (put (put (Vector.replicate 8 0) 0 base) 1 low1) 2 target) 4 rights

theorem soundFields (base : Word) (h : base = 0x20000 ∨ base = 0x10000) :
    FieldsSound (SuppliedFields.ofParams (supplied base 0xC00 0 0)) := by
  unfold FieldsSound Aligned SizeNamed TargetFits alignment RightsNamed
  rcases h with rfl | rfl <;> decide +kernel

theorem clear_world {w : Window} {f : FieldSet} (h : Apart w.fields f) (hr : w.revision = none) :
    ∀ j, ∀ v ∈ (world serving w).directory.window j, Clear v f := by
  intro j v hv
  rw [window_world] at hv
  by_cases e : j = 5
  · simp [e] at hv
    subst hv
    exact ⟨h, by simp [hr]⟩
  · simp [e] at hv

/-- A table with no FREE slot. -/
def full : State :=
  { told (world serving room) (order .openWindow (supplied 0x20000 0xC00 0 0)) with
    directory := { (world serving room).directory with slots := Vector.replicate 128 { generation := 0, window := some room } } }

theorem witness_OpenFillsLowestFreeSlot :
    (Command (told (world serving room) (order .openWindow (supplied 0x20000 0xC00 0 0))) .openWindow
        (order .openWindow (supplied 0x20000 0xC00 0 0)) [] ∧
      (world serving room).directory.window 0 = none ∧ FieldsSound (SuppliedFields.ofParams (supplied 0x20000 0xC00 0 0)) ∧
      ∀ j, ∀ v ∈ (world serving room).directory.window j,
        Clear v (SuppliedFields.ofParams (supplied 0x20000 0xC00 0 0)).fieldSet) ∧
      (∀ j, full.directory.window j ≠ none) ∧
      FieldsRefused (SuppliedFields.ofParams (supplied 0x20800 0xC00 0 0)) .misaligned ∧
      FieldsRefused (SuppliedFields.ofParams (supplied 0x20000 0xB00 0 0)) .badSize ∧
      FieldsRefused (SuppliedFields.ofParams (supplied 0x20000 0xC00 0 3)) .badField ∧
      ¬ Clear room (SuppliedFields.ofParams (supplied 0x10000 0xC00 0 0)).fieldSet := by
  refine ⟨⟨command_world _ _ _ _, by simp [window_world], soundFields _ (.inl rfl), clear_world ?_ rfl⟩, fun j => ?_, ?_, ?_,
    ?_, fun h => ?_⟩
  · unfold Apart; decide +kernel
  · simp [full, Directory.window]
  · unfold FieldsRefused Aligned SizeNamed TargetFits alignment RightsNamed; decide +kernel
  · unfold FieldsRefused Aligned SizeNamed TargetFits alignment RightsNamed; decide +kernel
  · unfold FieldsRefused Aligned SizeNamed TargetFits alignment RightsNamed; decide +kernel
  · have := h.1
    revert this
    unfold Apart
    decide +kernel

theorem stale_world (h : BitVec 16) (e : h.toNat ≠ 5) : Stale (world serving room).directory h := by
  rintro i w ⟨hw, hn⟩
  rw [window_world] at hw
  by_cases j : i = 5
  · subst j
    simp [world, withWindow, Directory.initial] at hn
    exact e (by simpa using hn)
  · simp [j] at hw

theorem witness_QueriesReport :
    Command (tell .query 5 0 0) .query (order .query (words 5 0 0)) [] ∧
      Names (tell .query 5 0 0).directory ((look (words 5 0 0) 0).extractLsb' 0 16) 5 room ∧
      Stale (world serving room).directory 6 ∧ Stale (world serving room).directory 0x8005 ∧
      Command (tell .queryAddr 0x11000 0 0) .queryAddr (order .queryAddr (words 0x11000 0 0)) [] ∧
      Unmatched (world serving room).directory 0x11000 ∧ Matches (world serving room).directory 0x10FFF 5 room :=
  ⟨command_world _ _ _ _, names_world _ _, stale_world 6 (by decide), stale_world 0x8005 (by decide), command_world _ _ _ _,
    unmatched_world _ _ (by unfold Within; decide), matches_world _ _ (by unfold Within; decide)⟩

theorem witness_WindowCommandRefusals :
    (∀ kind p0 p1 p5 w, Command (tell kind p0 p1 p5 w) kind (order kind (words p0 p1 p5)) []) ∧
      Stale (world serving room).directory 6 ∧
      (∀ w, Names (world serving w).directory ((look (words 5 0 5) 0).extractLsb' 0 16) 5 w ∧
        Names (world serving w).directory ((look (words 5 0 5) 5).extractLsb' 0 16) 5 w) ∧
      (recalledFor fun c => { c with retire := true }).state = .retiring ∧
      (recalledFor fun c => { c with revision := true }).state = .revising ∧ room.state = .opened ∧
      FieldsRefused (SuppliedFields.ofParams (words 0x10800 0xC00 5)) .misaligned ∧ (watched room).watch ≠ none ∧
      room.watch = none ∧ (look (words 5 0x300 0) 1).extractLsb' 0 8 = 0 ∧ (look (words 5 0xFF 0) 1).extractLsb' 8 2 = 0 := by
  refine ⟨fun _ _ _ _ _ => command_world _ _ _ _, stale_world 6 (by decide), fun w => ⟨names_world _ w, names_world _ w⟩,
    by decide, by decide, by decide, ?_, by decide, by decide, by decide, by decide⟩
  unfold FieldsRefused Aligned SizeNamed TargetFits alignment RightsNamed
  decide +kernel

theorem revisePasses_world {w : Window} (p5 : Word) (hp : p5 = 5 ∨ p5 = 0x10005) (h : w.state = .opened ∨ w.state = .recalling) :
    RevisePasses (tell .revise 0x10000 0xC00 p5 w) (order .revise (words 0x10000 0xC00 p5)) [] 5 w :=
  ⟨command_world _ _ _ _, by rcases hp with rfl | rfl <;> exact names_world _ _, h, by
    unfold FieldsSound Aligned SizeNamed TargetFits alignment RightsNamed
    rcases hp with rfl | rfl <;> decide +kernel, fun j hj v hv => by
      have hv' : (if j = 5 then some w else none) = some v := by rw [← window_world serving w j]; exact hv
      simp [hj] at hv'⟩

theorem witness_ReviseAppliesAtOnce :
    RevisePasses (tell .revise 0x10000 0xC00 5) (order .revise (words 0x10000 0xC00 5)) [] 5 room ∧ room.context = none ∧
      ∀ k, affectedTo room (SuppliedFields.ofParams (words 0x10000 0xC00 5)).fieldSet k = none := by
  refine ⟨revisePasses_world 5 (.inl rfl) (.inl (by decide)), rfl, ?_⟩
  unfold affectedTo
  decide +kernel

theorem forceEndsNoDetach_world {a : AgentRecord} (w v : Window) (force : Bool) (h : a.state = .online) :
    ForceEndsNoDetach (world a w) v force := fun _ j _ => goesOn_world w j .none (.inl h)

theorem noRecall_world {a : AgentRecord} (w : Window) (k : Agent) (h : a.notices = []) :
    ((world a w).directory.agent k).holdsRecall 5 = false := by
  rw [agent_world]
  simp [AgentRecord.holdsRecall, h]

/-- A window in OPEN with a holder that a REVISE to no rights affects, one with a pinned holder, and one of each under a recall;
with force, the pinned holder is revoked and no agent stays in a set. -/
theorem witness_ReviseStagesRevision :
    (∀ w, w = heldBy 1 .owner ∨ w = pinnedBy 1 ∨ w = recalling .held ∨ w = blocked ∨ w = blockedAtShared id →
      (∀ p5, p5 = (5 : Word) ∨ p5 = 0x10005 →
        RevisePasses (tell .revise 0x10000 0xC00 p5 w) (order .revise (words 0x10000 0xC00 p5)) [] 5 w ∧
          ∀ force, ForceEndsNoDetach (tell .revise 0x10000 0xC00 p5 w) w force) ∧
        SetsSound w ∧ ReservationForHead w ∧ ∀ k, ((world serving w).directory.agent k).holdsRecall 5 = false) ∧
      (∀ w, w = heldBy 1 .owner ∨ w = pinnedBy 1 → w.context = none ∧
        affectedTo w (SuppliedFields.ofParams (words 0x10000 0xC00 5)).fieldSet 1 ≠ none) ∧
      (∀ w, w = recalling .held ∨ w = blocked ∨ w = blockedAtShared id → ∃ c, w.context = some c ∧ c.force = false) ∧
      (look (words 0x10000 0xC00 5) 5).getLsbD 16 = false ∧ (look (words 0x10000 0xC00 0x10005) 5).getLsbD 16 = true := by
  refine ⟨fun w hw => ⟨fun p5 hp => ⟨revisePasses_world p5 hp ?_, fun force => forceEndsNoDetach_world _ _ _ rfl⟩, ?_, ?_,
    fun k => noRecall_world w k rfl⟩, fun w hw => ?_, fun w hw => ?_, by decide, by decide⟩
  · rcases hw with rfl | rfl | rfl | rfl | rfl <;> decide
  · unfold SetsSound AboveTarget
    rcases hw with rfl | rfl | rfl | rfl | rfl <;> decide
  · unfold ReservationForHead
    rcases hw with rfl | rfl | rfl | rfl | rfl <;> decide
  · unfold affectedTo
    rcases hw with rfl | rfl <;> decide +kernel
  · rcases hw with rfl | rfl | rfl <;> exact ⟨_, rfl, rfl⟩

/-- A window whose recall a pending revision waits on. -/
def revising : Window :=
  { recalledFor fun c => { c with revision := true } with revision := some { fields := fields, force := false, tag := 2 } }

theorem witness_RetireRemovesWindow :
    (∀ w, (∀ p0, p0 = (5 : Word) ∨ p0 = 0x10005 →
      Command (tell .retire p0 0 0 w) .retire (order .retire (words p0 0 0)) [] ∧
        Names (tell .retire p0 0 0 w).directory ((look (words p0 0 0) 0).extractLsb' 0 16) 5 w ∧
        ∀ force, ForceEndsNoDetach (tell .retire p0 0 0 w) w force) ∧
      ∀ k, ((world serving w).directory.agent k).holdsRecall 5 = false) ∧
      ((∀ k, (watched room).holding k = .none) ∧ (watched room).context = none ∧ (watched room).revision = none ∧
        ∀ x ∈ (watched room).watch, x.tag ≠ 7) ∧
      (∀ w, w = heldBy 1 .owner ∨ w = pinnedBy 1 ∨ w = recalling .held ∨ w = blocked ∨ w = revising ∨ w = blockedAtShared id →
        w.state ≠ .retiring ∧ SetsSound w ∧ PartsFollowCauses w) ∧
      ((heldBy 1 .owner).context = none ∧ (pinnedBy 1).context = none ∧ revising.revision ≠ none) ∧
      (∀ w, w = recalling .held ∨ w = blocked ∨ w = revising ∨ w = blockedAtShared id →
        ∃ c, w.context = some c ∧ (c.revision = false → c.force = false)) ∧
      ((blockedAtShared id).holding 1 = .owner ∧ (blockedAtShared id).pinCount 1 ≠ 0 ∧ (blockedAtShared id).revision = none ∧
        ∃ c, (blockedAtShared id).context = some c ∧ look c.members 1 = .blocked ∧ look c.targets 1 = some .shared) ∧
      (look (words 5 0 0) 0).getLsbD 16 = false ∧ (look (words 0x10005 0 0) 0).getLsbD 16 = true := by
  refine ⟨fun w => ⟨fun p0 hp => ⟨command_world _ _ _ _, by rcases hp with rfl | rfl <;> exact names_world _ _,
    fun force => forceEndsNoDetach_world _ _ _ rfl⟩, fun k => noRecall_world w k rfl⟩, by decide, fun w hw => ⟨?_, ?_, ?_⟩,
    by decide, fun w hw => ?_, ⟨by decide, by decide, rfl, _, rfl, by decide, by decide⟩, by decide, by decide⟩
  · rcases hw with rfl | rfl | rfl | rfl | rfl | rfl <;> decide
  · unfold SetsSound AboveTarget
    rcases hw with rfl | rfl | rfl | rfl | rfl | rfl <;> decide
  · unfold PartsFollowCauses
    rcases hw with rfl | rfl | rfl | rfl | rfl | rfl <;> decide
  · rcases hw with rfl | rfl | rfl | rfl <;> exact ⟨_, rfl, fun _ => rfl⟩

/-- The window recalled for cause DETACH of agent 1, with another cause or without. -/
def detachRecalled (waiter : Bool) : Window :=
  recalledFor fun c => { c with waiter := waiter, detachAgents := put (Vector.replicate 8 false) 1 true }

/-- An ABORT of tag 9 in a machine whose agents are DETACHING, the command of agent 1 parked. -/
def abortDetaching (w : Window) : State :=
  parking { tag := 9, work := .detach 1 }
    (tell .abort 9 0 0 w { leaving with detach := some { tag := 9, forced := 0 } })

theorem witness_WatchParksAndAborts :
    (Command (tell .watch 5 0x101 0) .watch (order .watch (words 5 0x101 0)) [] ∧
      Names (tell .watch 5 0x101 0).directory ((look (words 5 0x101 0) 0).extractLsb' 0 16) 5 room ∧ room.state ≠ .retiring ∧
      room.watch = none ∧ (look (words 5 0x101 0) 1).extractLsb' 0 8 ≠ 0 ∧ (look (words 5 0x101 0) 1).extractLsb' 8 2 ≠ 0) ∧
      Command (tell .abort 9 0 0) .abort (order .abort (words 9 0 0)) [] ∧
      (∀ p ∈ (tell .abort 9 0 0).directory.parked, p.tag ≠ 9) ∧
      (∀ work, Command (parking { tag := 9, work := work } (tell .abort 9 0 0 (watched room))) .abort
          (order .abort (words 9 0 0)) [] ∧
        (parking { tag := 9, work := work } (tell .abort 9 0 0 (watched room))).directory.parked =
          [] ++ { tag := 9, work := work } :: []) ∧
      (parking { tag := 9, work := .watch 5 } (tell .abort 9 0 0 (watched room))).directory.window 5 = some (watched room) ∧
      (∀ w, (abortDetaching w).directory.window 5 = some w ∧ (∀ j, j ≠ 5 → (abortDetaching w).directory.window j = none) ∧
        (abortDetaching w).directory.parked = [] ++ { tag := 9, work := .detach 1 } :: [] ∧
        Command (abortDetaching w) .abort (order .abort (words 9 0 0)) [] ∧
        ((abortDetaching w).directory.agent 1).detach = some { tag := 9, forced := 0 } ∧
        ∀ j, NothingWaitsFor (abortDetaching w).directory j 5) ∧
      ∀ waiter, ∃ c, (detachRecalled waiter).context = some c ∧ look c.detachAgents 1 = true ∧
        (OtherCause c 1 ↔ waiter = true) := by
  refine ⟨⟨command_world _ _ _ _, names_world _ _, by decide, rfl, by decide, by decide⟩, command_world _ _ _ _,
    fun p hp => (nomatch hp), fun work => ⟨⟨⟨rfl, by show 1 + 0 < 16; decide⟩, rfl, fun p hp => ?_⟩, rfl⟩, ?_, fun w => ⟨?_,
    fun j hj => ?_, rfl, ⟨⟨rfl, by show 1 + 0 < 16; decide⟩, rfl, fun p hp => ?_⟩, ?_, fun j => nothingWaits j⟩,
    fun waiter => ⟨_, rfl, ?_, ?_⟩⟩
  · have : p = { tag := 9, work := work } := List.mem_singleton.1 hp
    rw [this]
    show (9 : Tag) ≠ 7
    decide
  · have : (parking { tag := 9, work := .watch 5 } (tell .abort 9 0 0 (watched room))).directory.window 5 =
      (world serving (watched room)).directory.window 5 := rfl
    rw [this, window_world]
    rfl
  · show (world _ w).directory.window 5 = _
    rw [window_world]
    rfl
  · show (world _ w).directory.window j = _
    rw [window_world, if_neg hj]
  · have : p = { tag := 9, work := .detach 1 } := List.mem_singleton.1 hp
    rw [this]
    show (9 : Tag) ≠ 7
    decide
  · show ((world _ w).directory.agent 1).detach = _
    rw [agent_world]
  · revert waiter
    decide
  · unfold OtherCause
    revert waiter
    decide

/-- REVISION beside another cause, and alone. -/
theorem witness_AbortRevisionKeepsOtherCauses :
    ∀ w, (∃ waiter, w = recalledFor fun c => { c with revision := true, waiter := waiter }) →
      let s := parking { tag := 9, work := .revise 5 } (tell .abort 9 0 0 w)
      Command s .abort (order .abort (words 9 0 0)) [] ∧ s.directory.parked = [] ++ { tag := 9, work := .revise 5 } :: [] ∧
        (9 : Tag) = (look (words 9 0 0) 0).extractLsb' 0 8 ∧ s.directory.window 5 = some w ∧
        (∀ k, NothingWaitsFor s.directory k 5) ∧
        ∃ c, w.context = some c ∧ c.idle = false ∧ c.retire = false ∧ ∀ k, look c.detachAgents k = false := by
  rintro w ⟨waiter, rfl⟩
  refine ⟨⟨⟨rfl, by show 1 + 0 < 16; decide⟩, rfl, fun p hp => ?_⟩, rfl, by decide, ?_, fun k => nothingWaits k, _, rfl, rfl, rfl,
    by revert waiter; decide⟩
  · have : p = { tag := 9, work := .revise 5 } := List.mem_singleton.1 hp
    rw [this]
    show (9 : Tag) ≠ 7
    decide
  · show (world serving _).directory.window 5 = _
    rw [window_world]
    rfl

/-- Agent numbers 7 and 8, settings with retries 3 and with hold 0, and agents in and out of service. -/
theorem witness_AgentCommands :
    (∀ kind p0 p1 a, Command (tell kind p0 p1 0 room a) kind (order kind (words p0 p1 0)) []) ∧
      7 < ((look (words 8 0 0) 0).extractLsb' 0 4).toNat ∧ ((look (words 7 0 0) 0).extractLsb' 0 4).toNat = (7 : Agent).val ∧
      (look (words 7 0x0100000C 0) 1).extractLsb' 2 2 = 3#2 ∧ (look (words 7 0 0) 1).extractLsb' 24 8 = 0#8 ∧
      (look (words 7 0x01000008 0) 1).extractLsb' 2 2 ≠ 3#2 ∧ (look (words 7 0x01000008 0) 1).extractLsb' 24 8 ≠ 0#8 ∧
      InService (world serving room) 7 ∧ ¬ InService (world AgentRecord.initial room) 7 ∧
      ¬ Online (world AgentRecord.initial room) 7 := by
  refine ⟨fun _ _ _ _ => command_world _ _ _ _, by decide, by decide, by decide, by decide, by decide, by decide, ?_, ?_, ?_⟩
  · unfold InService; rw [agent_world]; decide
  · unfold InService; rw [agent_world]; decide
  · unfold Online; rw [agent_world]; decide

theorem windows_world {law : Window → Prop} (a : AgentRecord) {w : Window} (h : law w) :
    ∀ j, ∀ v ∈ (world a w).directory.window j, law v := by
  intro j v hv
  rw [window_world] at hv
  by_cases e : j = 5
  · simp [e] at hv
    exact hv ▸ h
  · simp [e] at hv

/-- An agent whose detach ends with its last holding. -/
def nearlyGone : AgentRecord := { leaving with holdingCount := 1 }

/-- A machine where every agent but agent 1 is in service with nothing held. -/
def worldOf (a : AgentRecord) (w : Window) : State :=
  let s := world serving w
  { s with directory := withAgent s.directory 1 a }

theorem agent_worldOf (a : AgentRecord) (w : Window) (j : Agent) :
    (worldOf a w).directory.agent j = if j = 1 then a else serving := by
  have e : (world serving w).directory.agent j = serving := agent_world serving w j
  show look (put (world serving w).directory.agents 1 a) j = _
  rw [look_put]
  split
  · rfl
  · exact e

/-- One command, in a machine where agent 1 alone is DETACHING. -/
def oneLeaving (kind : CommandKind) (p : Vector Word 8) (w : Window) : State := told (worldOf nearlyGone w) (order kind p)

theorem agent_oneLeaving (kind : CommandKind) (p : Vector Word 8) (w : Window) (j : Agent) :
    (oneLeaving kind p w).directory.agent j = if j = 1 then nearlyGone else serving := agent_worldOf nearlyGone w j

/-- The window that agents 1 and 2 share, agent 2 pinned and Blocked. -/
def sharedPinned : Window := (shared .blocked).setPins 2 1

/-- The ends of a parked detach: a RELEASE, a deadline, and force that finds the agent Blocked. -/
theorem witness_DetachAsksForHoldings_ends :
    (nearlyGone.state = .detaching ∧ nearlyGone.detach = some { tag := 3, forced := 0 } ∧ nearlyGone.holdingCount = 1) ∧
      (∀ w, (world nearlyGone w).directory.agent 1 = nearlyGone) ∧
      (Found (asking (world nearlyGone (heldBy 1 .owner)) 1 (ask 4)) 1 (ask 4) .release 5 (heldBy 1 .owner) ∧
        (ask 4).level = 0 ∧ (heldBy 1 .owner).holding 1 ≠ .none) ∧
      (∀ notice, Passing (world nearlyGone (overdue notice)) 5 1 (overdue notice) (asked (.outstanding (wait notice true)) .none)
        (wait notice true) .none) ∧
      ¬ (wait .taken true).retriesUsed < nearlyGone.settings.retries.toNat ∧ BelowThreshold nearlyGone 4 ∧
      (blocked.context = some (asked .blocked .none) ∧ look (asked .blocked .none).members 1 = .blocked ∧
        look (asked .blocked .none).targets 1 = some .none ∧ blocked.holding 1 ≠ .none ∧ blocked.state ≠ .retiring) ∧
      (∀ kind p w, (oneLeaving kind p w).directory.agent 1 = nearlyGone ∧
        ∀ j, j ≠ 1 → ((oneLeaving kind p w).directory.agent j).state ≠ .detaching) ∧
      (RevisePasses (oneLeaving .revise (words 0x10000 0xC00 0x10005) blocked) (order .revise (words 0x10000 0xC00 0x10005)) [] 5
          blocked ∧ (look (words 0x10000 0xC00 0x10005) 5).getLsbD 16 = true) ∧
      Command (oneLeaving .retire (words 0x10005 0 0) blocked) .retire (order .retire (words 0x10005 0 0)) [] ∧
      Names (oneLeaving .retire (words 0x10005 0 0) blocked).directory ((look (words 0x10005 0 0) 0).extractLsb' 0 16) 5 blocked ∧
      (look (words 0x10005 0 0) 0).getLsbD 16 = true := by
  refine ⟨by decide, fun w => agent_world _ _ _, ⟨found_ask 1 (.inr rfl) rfl rfl, rfl, by decide⟩, passing_world _, by decide, ?_,
    by decide, fun kind p w => ⟨agent_oneLeaving _ _ _ _, fun j hj => ?_⟩, ⟨?_, by decide⟩,
    command_world serving blocked .retire (words 0x10005 0 0), names_world serving blocked, by decide⟩
  · unfold BelowThreshold scoreAfter; decide
  · rw [agent_oneLeaving, if_neg hj]
    decide
  · have h := revisePasses_world (w := blocked) 0x10005 (.inr rfl) (.inr (by decide))
    exact ⟨h.command, h.names, h.calm, h.fields, h.clear⟩

/-- The windows that an AGENT_DETACH of agent 1 may meet: one where it is the head in OPEN, one where it waits behind another, and
running recalls that it joins from no set, from the Outstanding set at SHARED and from the Blocked set; under a REVISE and a RETIRE
too. -/
def met (w : Window) : Prop :=
  w = queue [⟨1, .claim⟩, ⟨0, .share⟩] (heldBy 1 .shared) ∨ w = queue [⟨0, .share⟩, ⟨1, .claim⟩] (heldBy 1 .shared) ∨
    w = recalling .taken ∨ w = blocked ∨ w = blockedAtShared id ∨ w = revising ∨ w = recalledFor fun c => { c with retire := true }

/-- Two windows in which agent 1 holds: what one AGENT_DETACH asks for in both. -/
def holdingTwo : State :=
  let s := tell .agentDetach 1 0 0 (recalling .taken) { serving with holdingCount := 2 }
  { s with directory := withWindow s.directory 6 { heldBy 1 .shared with fields := { fields with agentBase := 0x20000 } } }

theorem test_detach_asks_in_every_window :
    let t := after .agentDetach holdingTwo
    t.directory.parked = [{ tag := 7, work := .detach 1 }] ∧
      ((t.directory.window 5).map fun w => w.context.any (·.detach)) = some true ∧
      ((t.directory.window 6).map (·.state)) = some .recalling ∧
      ((t.directory.agent 1).notices.map fun n => (n.slot, n.kind)) = [(6, .recall .none)] := by decide +kernel

theorem test_detach_leaves_lists :
    let t := after .agentDetach (tell .agentDetach 1 0 0 (queue [⟨1, .claim⟩, ⟨0, .share⟩]))
    ((t.directory.window 5).map fun w => (w.waiters.map (·.agent), w.reservation.map (·.agent))) = some ([0], some 0) ∧
      (t.directory.agent 1).state = .offline := by decide +kernel

/-- The general clause of the statement has no hypothesis on the windows. -/
theorem witness_DetachAsksForHoldings_joins :
    (∀ w, met w → Command (tell .agentDetach 1 0 0 w { serving with holdingCount := 1 }) .agentDetach
        (order .agentDetach (words 1 0 0)) [] ∧
      Online (world { serving with holdingCount := 1 } w) 1 ∧ w.holding 1 ≠ .none) ∧
      Command holdingTwo .agentDetach (order .agentDetach (words 1 0 0)) [] ∧ Online holdingTwo 1 ∧
      openHeads (world serving (queue [⟨1, .claim⟩, ⟨0, .share⟩] (heldBy 1 .shared))).directory 1 = [5] ∧
      openHeads (world serving (queue [⟨0, .share⟩, ⟨1, .claim⟩] (heldBy 1 .shared))).directory 1 = [] := by
  refine ⟨fun w hw => ⟨command_world _ _ _ _, ?_, ?_⟩, command_world { serving with holdingCount := 2 } (recalling .taken) _ _, ?_,
    by decide +kernel, by decide +kernel⟩
  · unfold Online
    rw [agent_world]
    rfl
  · rcases hw with rfl | rfl | rfl | rfl | rfl | rfl | rfl <;> decide
  · show ((world { serving with holdingCount := 2 } (recalling .taken)).directory.agent 1).state = .online
    rw [agent_world]
    rfl

theorem witness_DetachAsksForHoldings :
    (∀ p0 a w, Command (tell .agentDetach p0 0 0 w a) .agentDetach (order .agentDetach (words p0 0 0)) []) ∧
      ((look (words 1 0 0) 0).extractLsb' 0 4).toNat = (1 : Agent).val ∧
      ((look (words 0x10002 0 0) 0).extractLsb' 0 4).toNat = (2 : Agent).val ∧
      (∀ w k, Online (world serving w) k ∧ Online (world { serving with holdingCount := 1 } w) k) ∧
      (∀ a w, w = room ∨ w = heldBy 1 .owner ∨ w = pinnedBy 1 ∨ w = sharedPinned →
        (∀ j, ∀ v ∈ (world a w).directory.window j, ∀ x ∈ v.waiters, x.agent ≠ 1) ∧
          (∀ j, ∀ v ∈ (world a w).directory.window j, ∀ c ∈ v.context, ∀ k, look c.detachAgents k = false) ∧
          ∀ j, j ≠ 5 → (world a w).directory.window j = none) ∧
      ((∀ j, ∀ w ∈ (world serving room).directory.window j, w.holding 1 = .none) ∧
        ((world serving room).directory.agent 1).holdingCount = 0) ∧
      (heldBy 1 .owner).holding 1 ≠ .none ∧ (heldBy 1 .owner).context = none ∧ (heldBy 1 .owner).pinCount 1 = 0 ∧
      (∀ w, ((world { serving with holdingCount := 1 } w).directory.agent 1).holdingCount = 1) ∧
      (∀ w k, ((world { serving with holdingCount := 1 } w).directory.agent k).holdsRecall 5 = false) ∧
      ((pinnedBy 1).pinCount 1 ≠ 0 ∧ (pinnedBy 1).context = none) ∧
      (∃ c, sharedPinned.context = some c ∧ InSet c 1 ∧ OtherCause c 2 ∧ sharedPinned.pinCount 2 ≠ 0 ∧
        look c.members 2 = .blocked) ∧
      (look (words 1 0 0) 0).getLsbD 16 = false ∧ (look (words 0x10001 0 0) 0).getLsbD 16 = true := by
  refine ⟨fun _ _ _ => command_world _ _ _ _, by decide, by decide, fun w k => ?_, fun a w hw => ⟨?_, ?_, fun j hj => ?_⟩,
    ⟨windows_world serving (law := fun w => w.holding 1 = .none) (by decide), by rw [agent_world]; rfl⟩, by decide,
    by decide, by decide, fun w => by rw [agent_world], fun w k => noRecall_world w k rfl, by decide, ⟨_, rfl, ?_⟩, by decide,
    by decide⟩
  · unfold Online
    rw [agent_world, agent_world]
    exact ⟨rfl, rfl⟩
  · refine windows_world a (law := fun w => ∀ x ∈ w.waiters, x.agent ≠ 1) ?_
    rcases hw with rfl | rfl | rfl | rfl <;> decide
  · refine windows_world a (law := fun w => ∀ c ∈ w.context, ∀ k, look c.detachAgents k = false) ?_
    rcases hw with rfl | rfl | rfl | rfl <;> decide
  · rw [window_world, if_neg hj]
  · unfold InSet OtherCause
    decide

theorem heldSlots_world (a : AgentRecord) (w : Window) (k : Agent) :
    (heldSlots (world a w).directory k).length = if (w.holding k).held then 1 else 0 := by
  have e : heldSlots (world a w).directory k = allSlots.filter fun i => i == 5 && (w.holding k).held := by
    refine List.filter_congr fun i _ => ?_
    rw [window_world]
    by_cases hi : i = 5 <;> simp [hi]
  rw [e]
  cases (w.holding k).held
  · simp
  · simp only [Bool.and_true, if_true]
    decide +kernel

theorem witness_AgentLossStrikesEverywhere :
    (∀ a, Command (tell .agentFence 1 0 0 (heldBy 1 .owner) a) .agentFence (order .agentFence (words 1 0 0)) []) ∧
      ((look (words 1 0 0) 0).extractLsb' 0 4).toNat = (1 : Agent).val ∧ InService (world serving (heldBy 1 .owner)) 1 ∧
      InService (world leaving room) 1 ∧ ((world leaving room).directory.agent 1).detach = some { tag := 3, forced := 0 } ∧
      CountsHoldings (world leaving room).directory :=
  ⟨fun _ => command_world _ _ _ _, by decide, service_world (heldBy 1 .owner) 1 (ask 0) (.inl rfl),
    service_world room 1 (ask 0) (.inr rfl), by rw [agent_world]; rfl, fun k => by
      rw [agent_world, heldSlots_world]
      revert k
      decide⟩

/-- The laws hold in a world with a holder, a waiter and notices, and a step from it answers. -/
theorem witness_StepKeeps :
    (let s := world { serving with notices := [note .revoked], backlog := [other.fields] } (queue [⟨0, .share⟩] (heldBy 1 .owner))
     EveryWindow SingleOwner s.directory ∧ EveryWindow PinsHeld s.directory ∧ RangesApart s.directory ∧
       EveryWindow (fun w => WaitersOnce w ∧ ReservationForHead w) s.directory ∧ EveryWindow PartsFollowCauses s.directory ∧
       EveryAgent (fun a => NoticesBounded a ∧ BacklogKeyed a) s.directory ∧ CommandsBounded s) ∧
      ∀ s : State, s.pending = [] → step s = .next s := by
  refine ⟨⟨windows_world _ ?_, windows_world _ ?_, fun i j hij v hv w hw => ?_, windows_world _ ?_, windows_world _ ?_, fun k => ?_,
    ?_⟩, fun s h => ?_⟩
  · unfold SingleOwner; decide
  · unfold PinsHeld; decide
  · rw [window_world] at hv hw
    split at hv <;> split at hw <;> simp_all
  · unfold WaitersOnce ReservationForHead; decide
  · unfold PartsFollowCauses; decide
  · rw [agent_world]
    unfold NoticesBounded BacklogKeyed
    decide
  · show 0 ≤ 4; decide
  · simp [step, h]

/-- The laws of parked commands hold in a machine with a WATCH parked. -/
theorem witness_StepKeepsPartsAndParkedCommands :
    ParkedLaws (parking { tag := 9, work := .watch 5 } (world serving (watched room))).directory := by
  let d := (parking { tag := 9, work := .watch 5 } (world serving (watched room))).directory
  have hw : ∀ j, d.window j = if j = 5 then some (watched room) else none := window_world serving (watched room)
  have ha : ∀ k, d.agent k = serving := agent_world serving (watched room)
  refine ⟨windows_world serving ?_, fun k => ?_, ⟨fun p hp => ?_, by decide⟩, ⟨fun i w h => ?_, fun k p h => ?_⟩,
    show 1 + 0 ≤ 16 by decide⟩
  · unfold PartsFollowCauses; decide
  · show DetachWhileDetaching (d.agent k)
    rw [ha k]
    unfold DetachWhileDetaching
    decide
  · obtain rfl : p = { tag := 9, work := .watch 5 } := List.mem_singleton.1 hp
    show ((d.window 5).bind (·.watch)).map (·.tag) = _
    rw [hw 5]
    rfl
  · have h' : (if i = 5 then some (watched room) else none) = some w := by rw [← hw i]; exact h
    split at h'
    · next e =>
      cases h'
      subst e
      exact ⟨nofun, nofun, fun x hx => by cases hx; exact List.mem_singleton.2 rfl⟩
    · cases h'
  · have h' : (d.agent k).detach = some p := h
    rw [ha k] at h'
    cases h'

/-- The recall laws hold in a machine where agent 1 is asked for the one copy it holds. -/
theorem witness_StepKeepsRecallLaws :
    RecallLaws (worldOf { serving with holdingCount := 1, notices := [note (.recall .none)] } (recalling .held)).directory := by
  have ws : ∀ {law : Window → Prop}, law (recalling .held) →
      EveryWindow law (worldOf { serving with holdingCount := 1, notices := [note (.recall .none)] } (recalling .held)).directory :=
    fun h => windows_world serving h
  refine ⟨ws ?_, ws ?_, ws ?_, ws ?_, ws ?_, ws ?_, ws ?_, fun k => ?_, fun k => ?_, ws ?_⟩
  · unfold PartsFollowCauses; decide
  · unfold CauseStands; decide
  · unfold SetsSound AboveTarget; decide
  · unfold RetiringTargetsAll; decide
  · intro c hc hr
    cases hc
    cases hr
  · unfold HoldingsAllowed; decide
  · unfold IdleNeedsLimit; decide
  · rw [agent_worldOf]
    refine Eq.trans ?_ (heldSlots_world serving (recalling .held) k).symm
    revert k
    decide
  · rw [agent_worldOf]
    unfold SilentOutOfService
    split <;> decide
  · exact fun x hx => nomatch hx

end Sys2Proof.Tests
end

section
/-! SUPPORT. Power-on, directory reset and the resolution (R20, R21, R41, R142, R187). -/

namespace Sys2Proof.Machine

open Sys2Proof.Safety

theorem window_reset (i : SlotId) : State.reset.directory.window i = none := by
  simp [Directory.window, State.reset, Directory.initial]

theorem agent_reset (k : Agent) : State.reset.directory.agent k = AgentRecord.initial := by
  simp [Directory.agent, State.reset, Directory.initial]

/-- A law of every window holds of a table without windows. -/
theorem everyWindow_reset (law : Window → Prop) : EveryWindow law State.reset.directory := by
  intro i w hw
  simp [window_reset] at hw

/-- A slot after a directory reset, as R21 has it. -/
theorem slot_afterReset (x : Slot) :
    x.afterReset = if x.window.isSome then { generation := x.generation + 1, window := none } else x := by
  unfold Slot.afterReset
  cases x.window <;> rfl

/-- Settles O3, value by value from `State.reset`. -/
theorem valuesAfterPowerOn : Obligations.ValuesAfterPowerOn := by
  refine ⟨fun i => ?_, agent_reset, fun k => ?_, fun n => ?_, rfl, rfl, rfl, rfl, rfl, rfl, by decide, by decide,
    by decide, rfl, by decide, fun s => rfl⟩
  · simp [State.reset, Directory.initial]
  · simp [State.reset]
  · simp [State.reset]

/-- Settles O4: a directory reset slot by slot, and a resolution set alone. -/
theorem controlWritesResetOrResolution : Obligations.ControlWritesResetOrResolution := by
  refine ⟨fun x s => ⟨s.directory.afterReset, rfl, fun i => ?_, rfl, rfl, rfl, rfl⟩, fun x s => ⟨_, rfl, rfl, ?_⟩⟩
  · rw [show look s.directory.afterReset.slots i = (look s.directory.slots i).afterReset by simp [Directory.afterReset]]
    exact slot_afterReset _
  · simp [State.readRegister, State.setResolution, place]

/-- The laws of parked commands and their records hold of the empty directory. -/
theorem parkedLaws_reset : ParkedLaws State.reset.directory where
  parts := everyWindow_reset _
  detach k := by simp [agent_reset, AgentRecord.initial, DetachWhileDetaching]
  kept := ⟨fun _ hp => (List.not_mem_nil hp).elim, List.nodup_nil⟩
  parked := ⟨fun i w hw => by simp [window_reset] at hw, fun k p hp => by simp [agent_reset, AgentRecord.initial] at hp⟩
  bounded := Nat.zero_le _

/-- The laws of recalls hold of the empty directory. -/
theorem recallLaws_reset : RecallLaws State.reset.directory where
  parts := everyWindow_reset _
  causes := everyWindow_reset _
  sets := everyWindow_reset _
  retiring := everyWindow_reset _
  revising := everyWindow_reset _
  allowed := everyWindow_reset _
  idle := everyWindow_reset _
  counts k := by simp [heldSlots, window_reset, agent_reset, AgentRecord.initial]
  silent k _ := by simp [agent_reset, AgentRecord.initial]
  waiters := everyWindow_reset _

/-- Settles O60: after power-on no window stands and every agent record is the initial one. -/
theorem lawsHoldAfterPowerOn : Obligations.LawsHoldAfterPowerOn := by
  refine ⟨everyWindow_reset _, everyWindow_reset _, fun k => ?_, everyWindow_reset _, everyWindow_reset _, ?_,
    fun i j _ v hv => ?_, parkedLaws_reset, recallLaws_reset⟩
  · simp [agent_reset, AgentRecord.initial, NoticesBounded, BacklogKeyed]
  · simp [CommandsBounded, State.reset]
  · simp [window_reset] at hv

end Sys2Proof.Machine
end

section
/-! SUPPORT. The Window Table's commands: the checks of a field set (R13, R14), OPEN (R17), QUERY and QUERY_ADDR (R18, R19). -/

namespace Sys2Proof.Machine

open Sys2Proof.Safety

/-! ### The overlap check (R14) -/

theorem overlaps_eq_false_iff {f g : FieldSet} : f.overlaps g = false ↔ Apart f g := by
  rw [FieldSet.overlaps, decide_eq_false_iff_not, Apart, FieldSet.bytes, FieldSet.bytes]
  omega

theorem overlaps_comm (f g : FieldSet) : f.overlaps g = g.overlaps f := by
  simp only [FieldSet.overlaps, decide_eq_decide]
  exact and_comm

theorem meets_eq_false_iff {v : Window} {f : FieldSet} : v.meets f = false ↔ Clear v f := by
  simp only [Window.meets, Clear, Bool.or_eq_false_iff, overlaps_eq_false_iff, Option.any_eq_false,
    Option.mem_def]

theorem overlapFound_eq_false_iff {d : Directory} {x : Option SlotId} {f : FieldSet} :
    d.overlapFound x f = false ↔ ∀ j, x ≠ some j → ∀ v, d.window j = some v → v.meets f = false := by
  simp [Directory.overlapFound, allSlots, Option.any_eq_false]

/-! ### The checks of a field set (R13) -/

theorem sizeNamed_iff {f : SuppliedFields} : f.sizeNamed = true ↔ SizeNamed f := by
  simp [SuppliedFields.sizeNamed, SizeNamed]

theorem ofCode_isSome (c : BitVec 2) : (Right.ofCode c).isSome = decide (c.toNat ≤ 2) := by
  revert c
  decide

theorem rightsNamed_iff {f : SuppliedFields} : f.rightsNamed = true ↔ RightsNamed f := by
  simp [SuppliedFields.rightsNamed, RightsNamed, ofCode_isSome]

/-- The exponent that check 1 uses gives the alignment of R13. -/
theorem two_pow_size (f : SuppliedFields) : 2 ^ (if f.sizeNamed then f.size.toNat else 12) = alignment f := by
  by_cases h : SizeNamed f
  · rw [if_pos (sizeNamed_iff.2 h)]
    exact (if_pos h).symm
  · rw [if_neg (mt sizeNamed_iff.1 h)]
    exact (if_neg h).symm

/-- The checks of R13 as one case split, in their order. -/
theorem fault_eq (f : SuppliedFields) [Decidable (Aligned f)] [Decidable (SizeNamed f)] [Decidable (TargetFits f)] :
    f.fault =
      if Aligned f then if SizeNamed f then if TargetFits f then none else some .badField else some .badSize
      else some .misaligned := by
  have h1 : (f.targetBase.toNat % 4096 ≠ 0 ∨
      f.agentBase.toNat % 2 ^ (if f.sizeNamed then f.size.toNat else 12) ≠ 0) ↔ ¬ Aligned f := by
    rw [two_pow_size, Aligned]
    tauto
  have h2 : ((!f.sizeNamed) = true) ↔ ¬ SizeNamed f := by rw [← sizeNamed_iff]; simp
  have h3 : (2 ^ 40 < f.targetBase.toNat + 2 ^ f.size.toNat ∨ (!f.rightsNamed) = true) ↔ ¬ TargetFits f := by
    rw [TargetFits, ← rightsNamed_iff, not_and_or, not_le, Bool.not_eq_true', Bool.not_eq_true]
  unfold SuppliedFields.fault
  simp only [h1, h2, h3, ite_not]

theorem fault_of_sound {f : SuppliedFields} (h : FieldsSound f) : f.fault = none := by
  classical
  obtain ⟨ha, hs, ht⟩ := h
  simp [fault_eq, ha, hs, ht]

theorem fault_of_refused {f : SuppliedFields} {x : Status} (h : FieldsRefused f x) : f.fault = some x := by
  classical
  obtain ⟨ha, rfl⟩ | ⟨ha, hs, rfl⟩ | ⟨ha, hs, ht, rfl⟩ := h
  · simp [fault_eq, ha]
  · simp [fault_eq, ha, hs]
  · simp [fault_eq, ha, hs, ht]

/-! ### OPEN (R17) -/

theorem lowestFree_eq_some {d : Directory} {i : SlotId} (hi : d.window i = none) (hlow : ∀ j, j < i → d.window j ≠ none) :
    d.lowestFree = some i := by
  rw [Directory.lowestFree, List.find?_eq_some_iff_getElem]
  refine ⟨by simp [hi], i.val, by simp, by simp, fun j hj => ?_⟩
  have := hlow ⟨j, hj.trans i.isLt⟩ hj
  simpa [Option.isSome_iff_ne_none] using this

theorem lowestFree_eq_none {d : Directory} (h : ∀ j, d.window j ≠ none) : d.lowestFree = none := by
  simpa [Directory.lowestFree] using h

theorem lowestFree_isSome {d : Directory} {j : SlotId} (h : d.window j = none) : ∃ i, d.lowestFree = some i := by
  rw [← Option.isSome_iff_exists, Directory.lowestFree, List.find?_isSome]
  exact ⟨j, List.mem_finRange j, by simp [h]⟩

theorem exec_openWindow {s : State} {e : Entry} {rest : List Entry} (h : Command s .openWindow e rest) :
    exec .openWindow s = .next (taken s rest (s.directory.openWindow s.clock e)) :=
  congrArg _ (takeCommand_of_command h)

/-- OPEN once its checks have passed. -/
theorem openWindow_of_sound {d : Directory} {now : Tick} {e : Entry} {i : SlotId} (hi : d.lowestFree = some i)
    (hf : (SuppliedFields.ofParams e.params).fault = none)
    (ho : d.overlapFound none (SuppliedFields.ofParams e.params).fieldSet = false) :
    d.openWindow now e =
      withRecord (withWindow d i ((SuppliedFields.ofParams e.params).fieldSet.opened now))
        (plainRecord e .done ((slotHandle d i).setWidth 32)) := by
  have hw : slotHandle (d.fillSlot i ((SuppliedFields.ofParams e.params).fieldSet.opened now)) i = slotHandle d i :=
    slotHandle_withWindow d i i _
  simp only [Directory.openWindow, hi, hf, ho, handleWord_eq, hw]
  rfl

/-- Settles O43: the checks of OPEN in their order, each with what it writes. -/
theorem openFillsLowestFreeSlot : Obligations.OpenFillsLowestFreeSlot := by
  refine ⟨fun s e rest i hc hi hlow hf hcl => ?_, fun s e rest hc => ?_⟩
  · have ho : s.directory.overlapFound none (SuppliedFields.ofParams e.params).fieldSet = false :=
      overlapFound_eq_false_iff.2 fun j _ v hv => meets_eq_false_iff.2 (hcl j v hv)
    rw [exec_openWindow hc, openWindow_of_sound (lowestFree_eq_some hi hlow) (fault_of_sound hf) ho]
    rfl
  · simp only [exec_openWindow hc]
    refine ⟨fun hfull => ?_, fun ⟨j, hj⟩ => ?_⟩
    · simp only [Directory.openWindow, lowestFree_eq_none hfull]
      rfl
    · obtain ⟨i, hi⟩ := lowestFree_isSome hj
      refine ⟨fun x hx => ?_, fun hf hmet => ?_⟩
      · simp only [Directory.openWindow, hi, fault_of_refused hx]
        rfl
      · obtain ⟨k, v, hv, hn⟩ := hmet
        have ho : s.directory.overlapFound none (SuppliedFields.ofParams e.params).fieldSet = true := by
          by_contra hno
          exact hn (meets_eq_false_iff.1
            (overlapFound_eq_false_iff.1 (Bool.not_eq_true _ ▸ hno) k (by simp) v hv))
        simp only [Directory.openWindow, hi, fault_of_sound hf, ho]
        rfl

/-! ### QUERY, QUERY_ADDR (R3, R18, R19) -/

/-- The handle check finds the slot of the window that the handle names (R3). -/
theorem checkHandle_eq_some_iff {d : Directory} {h : BitVec 16} {i : SlotId} :
    d.checkHandle h = some i ↔ ∃ w, Names d h i w := by
  have hgen := (look d.slots i).generation.isLt
  simp only [Directory.checkHandle, Option.ite_none_right_eq_some, Option.some.injEq, Names, Option.isSome_iff_exists]
  constructor
  · rintro ⟨⟨hb, ⟨w, hw⟩, hg⟩, rfl⟩
    refine ⟨w, hw, ?_⟩
    rw [hg]
    simp only [handleGeneration, handleSlot, BitVec.toNat_ofNat]
    omega
  · rintro ⟨w, hw, he⟩
    have hs : handleSlot h.toNat = i := by
      apply Fin.ext
      simp only [handleSlot]
      omega
    refine ⟨⟨by omega, ⟨w, by rw [hs]; exact hw⟩, ?_⟩, hs⟩
    rw [hs]
    apply BitVec.eq_of_toNat_eq
    simp only [handleGeneration, BitVec.toNat_ofNat]
    omega

theorem checkHandle_of_stale {d : Directory} {h : BitVec 16} (g : Stale d h) : d.checkHandle h = none := by
  cases e : d.checkHandle h with
  | none => rfl
  | some i =>
    obtain ⟨w, hw⟩ := checkHandle_eq_some_iff.1 e
    exact absurd hw (g i w)

theorem checkHandle_of_names {d : Directory} {h : BitVec 16} {i : SlotId} {w : Window} (g : Names d h i w) :
    d.checkHandle h = some i := checkHandle_eq_some_iff.2 ⟨w, g⟩

theorem query_of_stale {d : Directory} {e : Entry} (h : Stale d (handleField (e.param 0))) :
    d.query e = withRecord d (plainRecord e .staleHandle ((handleField (e.param 0)).setWidth 32)) := by
  simp only [Directory.query, checkHandle_of_stale h]
  rfl

theorem query_of_names {d : Directory} {e : Entry} {i : SlotId} {w : Window} (h : Names d (handleField (e.param 0)) i w) :
    d.query e = withRecord d (w.queryRecord e ((handleField (e.param 0)).setWidth 32)) := by
  simp only [Directory.query, checkHandle_of_names h, Option.bind_some, h.1]
  rfl

theorem queryAddr_of_unmatched {d : Directory} {e : Entry} (h : Unmatched d (addressOf (e.param 0) (e.param 1))) :
    d.queryAddr e = withRecord d (plainRecord e .notFound 0) := by
  simp only [Directory.queryAddr, matched_of_unmatched h]
  rfl

theorem queryAddr_of_matches {d : Directory} {e : Entry} {i : SlotId} {w : Window}
    (h : Matches d (addressOf (e.param 0) (e.param 1)) i w) :
    d.queryAddr e = withRecord d (plainRecord e .done ((slotHandle d i).setWidth 32)) := by
  simp only [Directory.queryAddr, matched_of_matches h]
  rfl

/-- Settles O44: the handle check and the match decide between the two records of each command. -/
theorem queriesReport : Obligations.QueriesReport := by
  refine fun s e rest => ⟨fun hc => ?_, fun hc => ?_⟩
  · have hx : exec .query s = .next (taken s rest (s.directory.query e)) := congrArg _ (takeCommand_of_command hc)
    rw [hx]
    exact ⟨fun h => by rw [query_of_stale h]; rfl, fun i w h => by rw [query_of_names h]; rfl⟩
  · have hx : exec .queryAddr s = .next (taken s rest (s.directory.queryAddr e)) := congrArg _ (takeCommand_of_command hc)
    rw [hx]
    exact ⟨fun h => by rw [queryAddr_of_unmatched h], fun i w h => by rw [queryAddr_of_matches h]⟩

end Sys2Proof.Machine
end

section
/-! SUPPORT. Fields at their bits: one rule for a placed field, one for a field per agent, and the words made of them (R195, R197). -/

namespace Sys2Proof.Machine

open Sys2Proof.Safety

/-! ### Placed fields -/

theorem getLsbD_place {len : Nat} (n lo b : Nat) (x : BitVec len) :
    (place n lo x).getLsbD b = (decide (b < n) && !decide (b < lo) && x.getLsbD (b - lo)) := by
  by_cases h : b < n <;> simp [place, h]

theorem getLsbD_foldl_or {n : Nat} (l : List Agent) (g : Agent → BitVec n) (acc : BitVec n) (b : Nat) :
    (l.foldl (fun acc k => acc ||| g k) acc).getLsbD b = (acc.getLsbD b || l.any fun k => (g k).getLsbD b) := by
  induction l generalizing acc with
  | nil => simp
  | cons k l ih => simp [ih, Bool.or_assoc]

/-- A bit of a word with one field per agent. -/
theorem getLsbD_perAgent_any (n len : Nat) (f : Agent → BitVec len) (b : Nat) :
    (perAgent n len f).getLsbD b =
      allAgents.any fun k => decide (b < n) && !decide (b < len * k.val) && (f k).getLsbD (b - len * k.val) := by
  have h0 : (0 : BitVec n).getLsbD b = false := by simp
  rw [perAgent, getLsbD_foldl_or, h0, Bool.false_or]
  simp only [getLsbD_place]

/-- A bit below the eighth field's end: it belongs to the field of one agent. -/
theorem getLsbD_perAgent (n len : Nat) (f : Agent → BitVec len) (k : Agent) (j : Nat) (hj : j < len)
    (hn : len * k.val + j < n) : (perAgent n len f).getLsbD (len * k.val + j) = (f k).getLsbD j := by
  rw [getLsbD_perAgent_any, Bool.eq_iff_iff]
  simp only [List.any_eq_true, List.mem_finRange, true_and, hn, decide_true, Bool.true_and, Bool.and_eq_true,
    Bool.not_eq_true', decide_eq_false_iff_not, not_lt]
  constructor
  · rintro ⟨a, ha, hb⟩
    have hlt := BitVec.lt_of_getLsbD hb
    have : a = k := by
      apply Fin.ext
      have h1 : len * a.val < len * (k.val + 1) := by rw [Nat.mul_succ]; omega
      have h2 : len * k.val < len * (a.val + 1) := by rw [Nat.mul_succ]; omega
      have := Nat.lt_of_mul_lt_mul_left h1
      have := Nat.lt_of_mul_lt_mul_left h2
      omega
    subst this
    simpa using hb
  · exact fun hb => ⟨k, by omega, by simpa using hb⟩

/-- Beyond the eighth field the word is 0. -/
theorem getLsbD_perAgent_beyond (n len : Nat) (f : Agent → BitVec len) (b : Nat) (hb : len * 8 ≤ b) :
    (perAgent n len f).getLsbD b = false := by
  rw [getLsbD_perAgent_any, List.any_eq_false]
  intro a _
  have : len * (a.val + 1) ≤ len * 8 := Nat.mul_le_mul_left _ a.isLt
  rw [Nat.mul_succ] at this
  simp [BitVec.getLsbD_of_ge (f a) (b - len * a.val) (by omega)]

theorem extractLsb'_perAgent (n len : Nat) (f : Agent → BitVec len) (k : Agent) (hn : len * 8 ≤ n) :
    (perAgent n len f).extractLsb' (len * k.val) len = f k := by
  apply BitVec.eq_of_getLsbD_eq
  intro j hj
  have : len * (k.val + 1) ≤ len * 8 := Nat.mul_le_mul_left _ k.isLt
  rw [Nat.mul_succ] at this
  rw [BitVec.getLsbD_extractLsb', getLsbD_perAgent n len f k j hj (by omega)]
  simp [hj]

/-! ### The fields of a supplied field set (R195) -/

theorem extractLsb'_addressOf (low high : Word) :
    (addressOf low high).extractLsb' 0 32 = low ∧ (addressOf low high).extractLsb' 32 8 = high.extractLsb' 0 8 := by
  constructor
  · apply BitVec.eq_of_getLsbD_eq
    intro j hj
    rw [BitVec.getLsbD_extractLsb', addressOf, BitVec.getLsbD_append (x := field high 0 8) (y := low)]
    simp [hj]
  · apply BitVec.eq_of_getLsbD_eq
    intro j hj
    rw [BitVec.getLsbD_extractLsb', addressOf, BitVec.getLsbD_append (x := field high 0 8) (y := low)]
    simp [hj, field]

theorem rightCode_ofParams (p : Vector Word 8) (k : Agent) :
    (SuppliedFields.ofParams p).rightCode k = (look p 4).extractLsb' (2 * k.val) 2 := by
  apply BitVec.eq_of_getLsbD_eq
  intro j hj
  have : 2 * k.val + j < 16 := by omega
  simp [SuppliedFields.rightCode, SuppliedFields.ofParams, field, hj, this]

/-- The right that a supplied code names (R197). -/
theorem rights_fieldSet (f : SuppliedFields) (k : Agent) :
    look f.fieldSet.rights k = (Right.ofCode (f.rightCode k)).getD .none := by
  simp [SuppliedFields.fieldSet]

/-! ### The words of a QUERY record (R18) -/

theorem code_holdingNumber (h : Holding) : h.code.toNat = holdingNumber h := by cases h <;> rfl

theorem code_windowStateNumber (x : WindowState) : (x.code.setWidth 16).toNat = windowStateNumber x := by cases x <;> rfl

theorem stateWord_holding (w : Window) (k : Agent) :
    w.stateWord.extractLsb' (2 * k.val) 2 = (w.holding k).code := by
  rw [← extractLsb'_perAgent 32 2 (fun k => (w.holding k).code) k (by decide)]
  apply BitVec.eq_of_getLsbD_eq
  intro j hj
  have : 2 * k.val + j < 16 := by omega
  simp [Window.stateWord, getLsbD_place, this]

theorem stateWord_state (w : Window) : w.stateWord.extractLsb' 16 16 = w.state.code.setWidth 16 := by
  apply BitVec.eq_of_getLsbD_eq
  intro j hj
  rw [BitVec.getLsbD_extractLsb', Window.stateWord, BitVec.getLsbD_or, getLsbD_perAgent_beyond _ _ _ _ (by omega),
    getLsbD_place]
  have : 16 + j < 32 := by omega
  simp [hj, this]

/-- The two masks of word 5, each empty without a context. -/
theorem recallWord_mask (w : Window) (k : Agent) :
    w.recallWord.getLsbD k.val = (w.context.any fun c => (look c.members k).isOutstanding) ∧
      w.recallWord.getLsbD (8 + k.val) = (w.context.any fun c => (look c.members k).isBlocked) := by
  unfold Window.recallWord
  cases w.context with
  | none => simp
  | some c =>
    have hk : 8 + k.val < 32 := by omega
    have bit_at : ∀ f : Agent → BitVec 1, (perAgent 32 1 f).getLsbD k.val = (f k).getLsbD 0 := fun f => by
      simpa using getLsbD_perAgent 32 1 f k 0 (by decide) (by omega)
    have bit_off : ∀ f : Agent → BitVec 1, (perAgent 32 1 f).getLsbD (8 + k.val) = false := fun f =>
      getLsbD_perAgent_beyond 32 1 f _ (by omega)
    constructor
    · have : ¬ 8 ≤ k.val := by omega
      simp [bit_at, bit]
    · rw [BitVec.getLsbD_or, bit_off, BitVec.getLsbD_shiftLeft, Nat.add_sub_cancel_left, bit_at]
      simp [bit, hk]

theorem recallWord_rest (w : Window) : w.recallWord.extractLsb' 16 16 = 0 := by
  apply BitVec.eq_of_getLsbD_eq
  intro j hj
  unfold Window.recallWord
  cases w.context with
  | none => simp
  | some c =>
    have h1 : 16 + j - 8 = 8 + j := by omega
    simp [getLsbD_perAgent_beyond 32 1 _ (16 + j) (by omega), getLsbD_perAgent_beyond 32 1 _ (8 + j) (by omega), h1]

/-- An agent is listed once at most, so that eight entries are the most a list holds. -/
theorem waiters_length_le {w : Window} (h : WaitersOnce w) : w.waiters.length ≤ 8 := by
  have := List.Nodup.length_le_card h
  simpa using this

/-- A field of word 4: below, above and beside it stand the others. -/
theorem waitWord_fields (w : Window) :
    w.waitWord.extractLsb' 0 4 = BitVec.ofNat 4 w.waiters.length ∧
      w.waitWord.extractLsb' 4 3 = BitVec.ofNat 3 ((w.head.map (·.val)).getD 0) ∧
      w.waitWord.getLsbD 8 = w.reservation.isSome ∧
      w.waitWord.extractLsb' 9 3 = BitVec.ofNat 3 ((w.reservation.map (·.agent.val)).getD 0) ∧
      w.waitWord.getLsbD 12 = w.revision.isSome ∧ w.waitWord.getLsbD 13 = w.watch.isSome ∧
      w.waitWord.getLsbD 7 = false ∧ w.waitWord.extractLsb' 14 18 = 0 := by
  unfold Window.waitWord
  refine ⟨?_, ?_, ?_, ?_, ?_, ?_, ?_, ?_⟩
  case refine_3 | refine_5 | refine_6 | refine_7 =>
    simp only [BitVec.getLsbD_or, getLsbD_place]
    simp [bit]
  case refine_1 | refine_2 | refine_4 | refine_8 =>
    apply BitVec.eq_of_getLsbD_eq
    intro j hj
    simp only [BitVec.getLsbD_extractLsb', BitVec.getLsbD_or, getLsbD_place]
    interval_cases j <;> simp [bit]

/-- Settles O42: each item of a word is one of its fields. -/
theorem paramAndRecordLayouts : Obligations.ParamAndRecordLayouts := by
  refine ⟨fun p => ?_, fun w hw => ?_⟩
  · obtain ⟨ha, ha'⟩ := extractLsb'_addressOf (look p 0) (look p 1)
    obtain ⟨ht, ht'⟩ := extractLsb'_addressOf (look p 2) (look p 3)
    refine ⟨ha, ha', rfl, rfl, rfl, rfl, ht, ht', rightCode_ofParams p, rfl, fun k => ⟨?_, ?_, ?_⟩⟩ <;>
      exact fun h => by rw [rights_fieldSet, h]; rfl
  · obtain ⟨hlen, hhead, hres, hagent, hrev, hwatch, hbit, hrest⟩ := waitWord_fields w
    refine ⟨fun k => ⟨?_, ?_, (recallWord_mask w k).1, (recallWord_mask w k).2⟩, ?_, recallWord_rest w, ?_, ?_, hres, ?_,
      hrev, hwatch, hbit, hrest⟩
    · rw [stateWord_holding, code_holdingNumber]
    · exact extractLsb'_perAgent 32 4 w.pinCount k (by decide)
    · rw [stateWord_state, code_windowStateNumber]
    · have := waiters_length_le hw
      rw [hlen, BitVec.toNat_ofNat]
      omega
    · rw [hhead, BitVec.toNat_ofNat]
      cases w.head with
      | none => rfl
      | some k => exact Nat.mod_eq_of_lt k.isLt
    · rw [hagent, BitVec.toNat_ofNat]
      cases w.reservation with
      | none => rfl
      | some r => exact Nat.mod_eq_of_lt r.agent.isLt

end Sys2Proof.Machine
end

section
/-! SUPPORT. "The Recall Controller lowers": what the operations of a running recall do to a window and to the directory between two
causes. A holding falls, a target strengthens, a waiter leaves; field set, pending revision, Retire Tag, watch and causes stay. One
relation, shown to hold of each such operation once; every law is then derived from the relation. -/

namespace Sys2Proof.Machine

open Sys2Proof.Safety

/-! ### Windows -/

/-- The target of an agent in the window's recall, if it has one. -/
def Window.target (w : Window) (k : Agent) : Option Level := w.context.bind fun c => look c.targets k

/-- What `SetsSound` says of one agent: its place in the recall is what its holding, pins and target make it. -/
def CellSound (w : Window) (c : RecallContext) (k : Agent) : Prop :=
  ((look c.members k).isOutstanding = true → AboveTarget w c k ∧ w.pinCount k = 0) ∧
    ((look c.members k).isBlocked = true → AboveTarget w c k ∧ w.pinCount k ≠ 0) ∧
    (AboveTarget w c k → (look c.members k).isMember = true)

/-- From `w` to `w'` a recall goes on, or none runs: nothing that a law of windows speaks of gets worse. -/
structure Window.Eases (w w' : Window) : Prop where
  fields : w'.fields = w.fields
  revision : w'.revision = w.revision
  retireTag : w'.retireTag = w.retireTag
  watch : w'.watch = w.watch
  waiters : ∀ x ∈ w'.waiters, x ∈ w.waiters
  idle : IdleNeedsLimit w → IdleNeedsLimit w'
  running : w'.context.isSome = w.context.isSome
  revising : w'.context.any (·.revision) = w.context.any (·.revision)
  retiring : w'.context.any (·.retire) = w.context.any (·.retire)
  causes : CauseStands w → CauseStands w'
  lowers : ∀ k, (w'.holding k).rank ≤ (w.holding k).rank
  targets : ∀ k, w'.holding k ≠ .none → ∀ t, w.target k = some t →
    ∃ t', w'.target k = some t' ∧ t'.holding.rank ≤ t.holding.rank
  sets : SetsSound w → SetsSound w'

theorem rank_eq_zero {h : Holding} : h.rank = 0 ↔ h = .none := by cases h <;> decide

/-- A holding that is there after a fall was there before. -/
theorem held_before {h h' : Holding} (r : h'.rank ≤ h.rank) (g : h' ≠ .none) : h ≠ .none := by
  rintro rfl
  exact g (rank_eq_zero.1 (Nat.le_zero.1 r))

theorem Window.Eases.refl (w : Window) : w.Eases w :=
  ⟨rfl, rfl, rfl, rfl, fun _ h => h, id, rfl, rfl, rfl, id, fun _ => le_rfl, fun _ _ t h => ⟨t, h, le_rfl⟩, id⟩

theorem Window.Eases.trans {u v w : Window} (h : u.Eases v) (g : v.Eases w) : u.Eases w where
  fields := g.fields.trans h.fields
  revision := g.revision.trans h.revision
  retireTag := g.retireTag.trans h.retireTag
  watch := g.watch.trans h.watch
  waiters x hx := h.waiters x (g.waiters x hx)
  idle x := g.idle (h.idle x)
  running := g.running.trans h.running
  revising := g.revising.trans h.revising
  retiring := g.retiring.trans h.retiring
  causes x := g.causes (h.causes x)
  lowers k := (g.lowers k).trans (h.lowers k)
  targets k hk t ht := by
    obtain ⟨t', ht', hr⟩ := h.targets k (held_before (g.lowers k) hk) t ht
    obtain ⟨t'', ht'', hr'⟩ := g.targets k hk t' ht'
    exact ⟨t'', ht'', hr'.trans hr⟩
  sets x := g.sets (h.sets x)

/-- An update outside the recall: deadlines, the reservation, and waiters that leave. -/
theorem Window.Eases.of_outside {w w' : Window}
    (frame : { w with lastGrant := w'.lastGrant, idle := w'.idle, waiters := w'.waiters,
                      reservation := w'.reservation } = w')
    (waiters : ∀ x ∈ w'.waiters, x ∈ w.waiters) (idle : IdleNeedsLimit w → IdleNeedsLimit w') : w.Eases w' := by
  rw [← frame] at *
  exact ⟨rfl, rfl, rfl, rfl, waiters, idle, rfl, rfl, rfl, id, fun _ => le_rfl, fun _ _ t h => ⟨t, h, le_rfl⟩, id⟩

/-- The idle deadline armed by R145 needs an Idle Limit. -/
theorem idleNeedsLimit_armIdle (w : Window) (t : Tick) : IdleNeedsLimit (w.armIdle t) := fun h => by
  have h' : w.fields.idleLimit = 0 := h
  simp [Window.armIdle, h']

theorem Window.eases_armIdle (w : Window) (t : Tick) : w.Eases (w.armIdle t) :=
  .of_outside rfl (fun _ h => h) fun _ => idleNeedsLimit_armIdle w t

theorem Window.eases_granted (w : Window) (t : Tick) : w.Eases (w.granted t) :=
  .of_outside rfl (fun _ h => h) fun _ => idleNeedsLimit_armIdle _ t

/-- Two contexts that differ in waits, force and Forced count alone. -/
structure RecallContext.Alike (c c' : RecallContext) : Prop where
  revision : c'.revision = c.revision
  retire : c'.retire = c.retire
  causeless : c'.causeless = c.causeless
  targets : c'.targets = c.targets
  outstanding : ∀ k, (look c'.members k).isOutstanding = (look c.members k).isOutstanding
  blocked : ∀ k, (look c'.members k).isBlocked = (look c.members k).isBlocked

theorem RecallContext.Alike.refl (c : RecallContext) : c.Alike c := ⟨rfl, rfl, rfl, rfl, fun _ => rfl, fun _ => rfl⟩

/-- An Outstanding agent's wait replaced by another. -/
theorem RecallContext.alike_wait (c : RecallContext) (k : Agent) (x y : Wait) (h : look c.members k = .outstanding x) :
    c.Alike (c.setMember k (.outstanding y)) := by
  refine ⟨rfl, rfl, rfl, rfl, fun j => ?_, fun j => ?_⟩ <;>
  · by_cases e : j = k
    · subst e
      simp [h, Membership.isOutstanding, Membership.isBlocked]
    · simp [e]

theorem RecallContext.alike_markNotice (c : RecallContext) (k : Agent) (n : NoticeStatus) : c.Alike (c.markNotice k n) := by
  unfold RecallContext.markNotice
  split
  · next w h => exact c.alike_wait k w _ h
  all_goals exact .refl c

theorem RecallContext.alike_markVerdict (c : RecallContext) (k : Agent) (b : Bool) : c.Alike (c.markVerdict k b) := by
  unfold RecallContext.markVerdict
  split
  · next w h => exact c.alike_wait k w _ h
  all_goals exact .refl c

/-- The window with a context that is alike. -/
theorem Window.Eases.of_alike {w w' : Window} {c c' : RecallContext} (hc : w.context = some c) (h : c.Alike c')
    (e : w' = { w with context := some c' }) : w.Eases w' := by
  subst e
  refine ⟨rfl, rfl, rfl, rfl, fun _ h => h, id, by simp [hc], ?_, ?_, fun hs x hx => ?_, fun _ => le_rfl,
    fun k _ t ht => ⟨t, ?_, le_rfl⟩, fun hs x hx k => ?_⟩
  · simp [hc, h.revision]
  · simp [hc, h.retire]
  · cases hx
    rw [h.causeless]
    exact hs c hc
  · simpa [Window.target, hc, h.targets] using ht
  · cases hx
    have : CellSound w c' k := by
      have := hs c hc k
      simpa only [CellSound, AboveTarget, Membership.isMember, h.outstanding, h.blocked, h.targets] using this
    exact this

theorem Window.modContext_eq_self {w : Window} {f : RecallContext → RecallContext} (hc : w.context = none) :
    w.modContext f = w := by
  cases w
  simp_all [Window.modContext]

theorem Window.eases_modContext {f : RecallContext → RecallContext} (h : ∀ c : RecallContext, c.Alike (f c)) (w : Window) :
    w.Eases (w.modContext f) := by
  cases hc : w.context with
  | none =>
    rw [Window.modContext_eq_self hc]
    exact .refl w
  | some c => exact .of_alike hc (h c) (by simp [Window.modContext, hc])

/-- One agent's cell of a recall rewritten: its holding falls, its target strengthens while it holds, and its place follows. -/
theorem Window.Eases.of_cell {w w' : Window} {c c' : RecallContext} (k : Agent) (hc : w.context = some c)
    (hc' : w'.context = some c')
    (frame : { w with lastGrant := w'.lastGrant, idle := w'.idle, holdings := w'.holdings, pins := w'.pins,
                      context := w'.context } = w')
    (idle : IdleNeedsLimit w → IdleNeedsLimit w')
    (flags : c'.revision = c.revision ∧ c'.retire = c.retire ∧ (c.causeless = false → c'.causeless = false))
    (others : ∀ j, j ≠ k → w'.holding j = w.holding j ∧ w'.pinCount j = w.pinCount j ∧
      look c'.targets j = look c.targets j ∧ look c'.members j = look c.members j)
    (lower : (w'.holding k).rank ≤ (w.holding k).rank)
    (target : w'.holding k ≠ .none → ∀ t, look c.targets k = some t →
      ∃ t', look c'.targets k = some t' ∧ t'.holding.rank ≤ t.holding.rank)
    (cell : CellSound w c k → CellSound w' c' k) : w.Eases w' := by
  obtain ⟨hrev, hret, hcl⟩ := flags
  have rest : w'.fields = w.fields ∧ w'.revision = w.revision ∧ w'.retireTag = w.retireTag ∧ w'.watch = w.watch ∧
      w'.waiters = w.waiters := by rw [← frame]; exact ⟨rfl, rfl, rfl, rfl, rfl⟩
  obtain ⟨h1, h2, h3, h4, h5⟩ := rest
  refine ⟨h1, h2, h3, h4, fun x hx => h5 ▸ hx, idle, by simp [hc, hc'], ?_, ?_, fun hs x hx => ?_, fun j => ?_, fun j hj t ht => ?_,
    fun hs x hx j => ?_⟩
  · simp [hc, hc', hrev]
  · simp [hc, hc', hret]
  · rw [hc'] at hx
    cases hx
    exact hcl (hs c hc)
  · by_cases e : j = k
    · subst e; exact lower
    · rw [(others j e).1]
  · simp only [Window.target, hc, hc', Option.bind_some] at ht ⊢
    by_cases e : j = k
    · subst e; exact target hj t ht
    · rw [(others j e).2.2.1]
      exact ⟨t, ht, le_rfl⟩
  · rw [hc'] at hx
    cases hx
    by_cases e : j = k
    · subst e; exact cell (hs c hc j)
    · obtain ⟨o1, o2, o3, o4⟩ := others j e
      have := hs c hc j
      simp only [AboveTarget, o1, o2, o3, o4] at this ⊢
      exact this

/-! ### The directory -/

/-- No notice waits in the agent's queue, and none for a place in it. -/
def AgentRecord.Silent (a : AgentRecord) : Prop := a.notices = [] ∧ a.backlog = []

/-- An agent that work on slot `i` may send a notice to: one that has notices already, or a holder there. -/
def Directory.MayNotify (d : Directory) (o : Option SlotId) (k : Agent) : Prop :=
  ¬ (d.agent k).Silent ∨ ∃ i, o = some i ∧ ∃ w, d.window i = some w ∧ (SetsSound w → w.holding k ≠ .none)

/-- From `d` to `d'` recalls go on, with the work on slot `o` alone able to send a first notice. -/
structure Directory.Eases (o : Option SlotId) (d d' : Directory) : Prop where
  windows : ∀ j, Option.Rel Window.Eases (d.window j) (d'.window j)
  states : ∀ k, (d'.agent k).state = (d.agent k).state
  detaches : ∀ k, (d'.agent k).detach.map (·.tag) = (d.agent k).detach.map (·.tag)
  falls : ∀ k, (d'.agent k).holdingCount ≤ (d.agent k).holdingCount
  counts : CountsHoldings d → CountsHoldings d'
  notices : ∀ k, ¬ d.MayNotify o k → (d'.agent k).Silent
  parked : d'.parked = d.parked
  completions : d'.completions.length ≤ d.completions.length

/-- An agent record that differs in settings, score, notices and the Detach Forced count alone. -/
structure AgentRecord.Alike (a b : AgentRecord) : Prop where
  state : b.state = a.state
  detach : b.detach.map (·.tag) = a.detach.map (·.tag)
  count : b.holdingCount = a.holdingCount

namespace Directory

theorem optionRel_refl (x : Option Window) : Option.Rel Window.Eases x x := by
  cases x
  · exact .none
  · exact .some (.refl _)

theorem Eases.refl (o : Option SlotId) (d : Directory) : Eases o d d where
  windows _ := optionRel_refl _
  states _ := rfl
  detaches _ := rfl
  falls _ := le_rfl
  counts := id
  notices k h := by
    by_contra hs
    exact h (.inl hs)
  parked := rfl
  completions := le_rfl

theorem Eases.window_some {o : Option SlotId} {d d' : Directory} (h : Eases o d d') {i : SlotId} {w' : Window}
    (hw : d'.window i = some w') : ∃ w, d.window i = some w ∧ w.Eases w' := by
  have := h.windows i
  rw [hw] at this
  cases e : d.window i with
  | none => rw [e] at this; cases this
  | some w =>
    rw [e] at this
    cases this with
    | some g => exact ⟨w, rfl, g⟩

theorem Eases.window_some' {o : Option SlotId} {d d' : Directory} (h : Eases o d d') {i : SlotId} {w : Window}
    (hw : d.window i = some w) : ∃ w', d'.window i = some w' ∧ w.Eases w' := by
  have := h.windows i
  rw [hw] at this
  cases e : d'.window i with
  | none => rw [e] at this; cases this
  | some w' =>
    rw [e] at this
    cases this with
    | some g => exact ⟨w', rfl, g⟩

theorem Eases.window_none {o : Option SlotId} {d d' : Directory} (h : Eases o d d') {i : SlotId} :
    d'.window i = none ↔ d.window i = none := by
  have := h.windows i
  generalize d.window i = x, d'.window i = y at this
  cases this <;> simp

/-- Who may be notified later might have been notified before. -/
theorem Eases.mayNotify {o : Option SlotId} {d d' : Directory} (h : Eases o d d') {k : Agent} (g : d'.MayNotify o k) :
    d.MayNotify o k := by
  rcases g with g | ⟨i, hi, w', hw', g⟩
  · by_contra hn
    exact g (h.notices k hn)
  · obtain ⟨w, hw, e⟩ := h.window_some hw'
    exact .inr ⟨i, hi, w, hw, fun hs => held_before (e.lowers k) (g (e.sets hs))⟩

theorem Eases.trans {o : Option SlotId} {a b c : Directory} (h : Eases o a b) (g : Eases o b c) : Eases o a c where
  windows j := by
    have h1 := h.windows j
    have h2 := g.windows j
    revert h1 h2
    generalize a.window j = x, b.window j = y, c.window j = z
    rintro (⟨h1⟩ | _) (⟨h2⟩ | _)
    · exact .some (h1.trans h2)
    · exact .none
  states k := (g.states k).trans (h.states k)
  detaches k := (g.detaches k).trans (h.detaches k)
  falls k := (g.falls k).trans (h.falls k)
  counts x := g.counts (h.counts x)
  notices k hk := g.notices k fun hm => hk (h.mayNotify hm)
  parked := g.parked.trans h.parked
  completions := g.completions.trans h.completions

end Directory

end Sys2Proof.Machine
end

section
/-! SUPPORT. The operations between two causes, one lemma each: they ease (R35 to R40, R79, R99 to R114, R143). -/

namespace Sys2Proof.Machine

open Sys2Proof.Safety

/-! ### The Holding Count (R32) -/

/-- The agent holds in the window of the slot. -/
def heldAt (d : Directory) (k : Agent) (i : SlotId) : Bool := (d.window i).any fun w => (w.holding k).held

theorem heldSlots_eq (d : Directory) (k : Agent) : heldSlots d k = allSlots.filter (heldAt d k) := rfl

/-- A filter whose predicate changes at one entry: the length follows. -/
theorem length_filter_change {α : Type} {l : List α} (hl : l.Nodup) {p q : α → Bool} {i : α} (hi : i ∈ l)
    (h : ∀ j, j ≠ i → q j = p j) : (l.filter q).length + (p i).toNat = (l.filter p).length + (q i).toNat := by
  induction l with
  | nil => cases hi
  | cons x l ih =>
    obtain ⟨hx, hl⟩ := List.nodup_cons.1 hl
    by_cases e : x = i
    · subst e
      have : l.filter q = l.filter p := List.filter_congr fun j hj => h j fun e => hx (e ▸ hj)
      simp only [List.filter_cons, this]
      cases p x <;> cases q x <;> simp
    · have ih := ih hl ((List.mem_cons.1 hi).resolve_left fun e' => e e'.symm)
      simp only [List.filter_cons, h x e]
      cases p x <;> simp <;> omega

/-- The counts stand while every agent holds where it held. -/
theorem countsHoldings_congr {d d' : Directory} (h : CountsHoldings d) (hh : ∀ k i, heldAt d' k i = heldAt d k i)
    (hc : ∀ k, (d'.agent k).holdingCount = (d.agent k).holdingCount) : CountsHoldings d' := fun k => by
  rw [hc k, h k, heldSlots_eq, heldSlots_eq, funext (hh k)]

/-- A change of one holding in one window, with its report to the agent's record, keeps the counts. -/
theorem countsHoldings_cell {d : Directory} {i : SlotId} {k : Agent} {w w' : Window} {a : AgentRecord} (h : CountsHoldings d)
    (hw : d.window i = some w) (ho : ∀ j, j ≠ k → w'.holding j = w.holding j)
    (hc : a.holdingCount = countAfter (d.agent k).holdingCount (w.holding k) (w'.holding k)) :
    CountsHoldings (withAgent (withWindow d i w') k a) := by
  have held : ∀ j m, heldAt (withAgent (withWindow d i w') k a) j m = if m = i then (w'.holding j).held else heldAt d j m := by
    intro j m
    by_cases e : m = i <;> simp [heldAt, e]
  have at_i : ∀ j, heldAt d j i = (w.holding j).held := fun j => by simp [heldAt, hw]
  intro j
  rw [agent_withAgent, agent_withWindow]
  have change := length_filter_change (List.nodup_finRange 128) (p := heldAt d j)
    (q := heldAt (withAgent (withWindow d i w') k a) j) (List.mem_finRange i) fun m hm => by simp [held, hm]
  rw [at_i, held, if_pos rfl, ← heldSlots_eq, ← heldSlots_eq, ← h j] at change
  by_cases e : j = k
  · subst e
    rw [if_pos rfl, hc, countAfter]
    revert change
    cases (w.holding j).held <;> cases (w'.holding j).held <;> simp only [Bool.toNat_true, Bool.toNat_false] <;> omega
  · rw [if_neg e]
    rw [ho j e] at change
    omega

theorem countAfter_le {n : Nat} {h h' : Holding} (r : h'.rank ≤ h.rank) : countAfter n h h' ≤ n := by
  cases h <;> cases h' <;> simp_all [countAfter, Holding.held, Holding.rank]

/-! ### Agent records -/

theorem AgentRecord.Alike.refl (a : AgentRecord) : a.Alike a := ⟨rfl, rfl, rfl⟩

theorem AgentRecord.Alike.trans {a b c : AgentRecord} (h : a.Alike b) (g : b.Alike c) : a.Alike c :=
  ⟨g.state.trans h.state, g.detach.trans h.detach, g.count.trans h.count⟩

theorem AgentRecord.alike_placeRecall (a : AgentRecord) (i : SlotId) (l : Level) (f : NoticeFields) :
    a.Alike (a.placeRecall i l f).1 := by
  have h : ({ (a.placeRecall i l f).1 with notices := a.notices } : AgentRecord) = a := (placeRecall_placed a i l f).1
  exact ⟨congrArg (·.state) h, congrArg (fun r => r.detach.map (·.tag)) h, congrArg (·.holdingCount) h⟩

theorem AgentRecord.alike_placeRevoked (a : AgentRecord) (i : SlotId) (f : NoticeFields) : a.Alike (a.placeRevoked i f) := by
  unfold AgentRecord.placeRevoked
  split
  · exact ⟨rfl, rfl, rfl⟩
  · split <;> exact ⟨rfl, rfl, rfl⟩

theorem AgentRecord.alike_countRevocation (a : AgentRecord) : a.Alike a.countRevocation := by
  unfold AgentRecord.countRevocation
  split
  · exact ⟨rfl, by cases a.detach <;> rfl, rfl⟩
  · exact .refl a

/-! ### The clock (R141, R143) -/

theorem RecallContext.alike_advance (c : RecallContext) (now : Tick) :
    c.Alike { c with members := c.members.map (·.advance now) } := by
  refine ⟨rfl, rfl, rfl, rfl, fun k => ?_, fun k => ?_⟩ <;>
  · simp only [look_map]
    cases look c.members k <;> rfl

theorem Window.eases_advance (w : Window) (now : Tick) : w.Eases (w.advance now) := by
  let v : Window :=
    { w with
      lastGrant := keepNear now w.lastGrant
      idle := w.idle.map (·.advance now)
      reservation := w.reservation.map fun r => { r with expiry := r.expiry.advance now } }
  have h : w.Eases v := .of_outside rfl (fun _ h => h) fun hi hl => by
    show w.idle.map _ = none
    rw [hi hl]
    rfl
  exact h.trans (v.eases_modContext fun c => c.alike_advance now)

/-- Two updates of one window in a row. -/
theorem modWindow_modWindow (d : Directory) (i : SlotId) (f g : Window → Window) :
    (d.modWindow i f).modWindow i g = d.modWindow i (g ∘ f) := by
  simp [Directory.modWindow, put_put]

namespace Directory

/-! ### The updates -/

/-- An update of one agent's record alone, which may be notified or is sent no first notice. -/
theorem Eases.modAgent {o : Option SlotId} {a d : Directory} (h : Eases o a d) (k : Agent) {f : AgentRecord → AgentRecord}
    (hf : (d.agent k).Alike (f (d.agent k)))
    (hn : a.MayNotify o k ∨ ((d.agent k).Silent → (f (d.agent k)).Silent)) : Eases o a (d.modAgent k f) where
  windows := h.windows
  states j := by
    by_cases e : j = k
    · subst e; simpa [hf.state] using h.states j
    · simpa [e] using h.states j
  detaches j := by
    by_cases e : j = k
    · subst e; simpa [hf.detach] using h.detaches j
    · simpa [e] using h.detaches j
  falls j := by
    by_cases e : j = k
    · subst e; simpa [hf.count] using h.falls j
    · simpa [e] using h.falls j
  counts x := countsHoldings_congr (h.counts x) (fun _ _ => rfl) fun j => by
    by_cases e : j = k
    · subst e; simp [hf.count]
    · simp [e]
  notices j hj := by
    by_cases e : j = k
    · subst e
      simpa using hn.resolve_left hj (h.notices j hj)
    · simpa [e] using h.notices j hj
  parked := h.parked
  completions := h.completions

/-- An update of one window that eases it and keeps its holdings. -/
theorem Eases.modWindow {o : Option SlotId} {a d : Directory} (h : Eases o a d) (i : SlotId) {f : Window → Window}
    (hf : ∀ w, d.window i = some w → w.Eases (f w) ∧ (f w).holdings = w.holdings) : Eases o a (d.modWindow i f) := by
  refine h.trans { Eases.refl o d with windows := fun j => ?_, counts := fun x => ?_, notices := fun k hk => ?_ }
  · by_cases e : j = i
    · subst e
      rw [window_modWindow, if_pos rfl]
      cases hw : d.window j with
      | none => exact .none
      | some w => exact .some (hf w hw).1
    · rw [window_modWindow, if_neg e]
      exact optionRel_refl _
  · refine countsHoldings_congr x (fun k j => ?_) fun _ => rfl
    by_cases e : j = i
    · subst e
      rw [heldAt, heldAt, window_modWindow, if_pos rfl]
      cases hw : d.window j with
      | none => rfl
      | some w => simp [Window.holding, (hf w hw).2]
    · simp [heldAt, e]
  · exact (Eases.refl o d).notices k hk

theorem Eases.modContext {o : Option SlotId} {a d : Directory} (h : Eases o a d) (i : SlotId)
    {f : RecallContext → RecallContext} (hf : ∀ c : RecallContext, c.Alike (f c)) : Eases o a (d.modContext i f) :=
  h.modWindow i fun w _ => ⟨w.eases_modContext hf, rfl⟩

/-- One agent's cell in one window, and its record: the shape of every change of a recall's sets. -/
theorem Eases.cell {d : Directory} {i : SlotId} {k : Agent} {w w' : Window} {r : AgentRecord} (hw : d.window i = some w)
    (he : w.Eases w') (ho : ∀ j, j ≠ k → w'.holding j = w.holding j) (hs : r.state = (d.agent k).state)
    (hd : r.detach.map (·.tag) = (d.agent k).detach.map (·.tag))
    (hc : r.holdingCount = countAfter (d.agent k).holdingCount (w.holding k) (w'.holding k))
    (hn : (SetsSound w → w.holding k ≠ .none) ∨ ((d.agent k).Silent → r.Silent)) :
    Eases (some i) d (withAgent (withWindow d i w') k r) where
  windows j := by
    by_cases e : j = i
    · subst e
      rw [hw]
      simpa using Option.Rel.some he
    · simpa [e] using optionRel_refl _
  states j := by
    by_cases e : j = k
    · subst e; simpa using hs
    · simp [e]
  detaches j := by
    by_cases e : j = k
    · subst e; simpa using hd
    · simp [e]
  falls j := by
    by_cases e : j = k
    · subst e
      simpa [hc] using countAfter_le (he.lowers j)
    · simp [e]
  counts x := countsHoldings_cell x hw ho hc
  notices j hj := by
    have quiet : (d.agent j).Silent := (Eases.refl _ d).notices j hj
    by_cases e : j = k
    · subst e
      rw [agent_withAgent, if_pos rfl]
      exact hn.elim (fun hh => absurd (.inr ⟨i, rfl, w, hw, hh⟩) hj) fun hh => hh quiet
    · simpa [e] using quiet
  parked := rfl
  completions := le_rfl

/-- The same where the agent's record stays. -/
theorem Eases.cell_window {d : Directory} {i : SlotId} {w w' : Window} (hw : d.window i = some w)
    (he : w.Eases w') (ho : ∀ j, w'.holding j = w.holding j) : Eases (some i) d (withWindow d i w') := by
  have := Eases.cell (k := 0) (r := d.agent 0) hw he (fun j _ => ho j) rfl rfl (by rw [ho, countAfter_same]) (.inr id)
  rwa [show withAgent (withWindow d i w') 0 (d.agent 0) = withWindow d i w' from withAgent_self (withWindow d i w') 0] at this

theorem Eases.foldl {α : Type} {o : Option SlotId} {a d : Directory} (h : Eases o a d) (f : Directory → α → Directory)
    (g : ∀ (d : Directory) (x : α), Eases o d (f d x)) (l : List α) : Eases o a (l.foldl f d) := by
  induction l generalizing d with
  | nil => exact h
  | cons x l ih => exact ih (h.trans (g d x))

/-- An update that leaves windows, agents and the Parked List alone. -/
theorem Eases.of_same {o : Option SlotId} {a d d' : Directory} (h : Eases o a d) (hs : d'.slots = d.slots)
    (ha : d'.agents = d.agents) (hp : d'.parked = d.parked) (hc : d'.completions.length ≤ d.completions.length) :
    Eases o a d' := by
  have e : { d with completions := d'.completions, alerts := d'.alerts, choices := d'.choices } = d' := by
    cases d'
    simp_all
  rw [← e] at *
  exact { h with completions := hc.trans h.completions }

theorem Eases.modAlerts {o : Option SlotId} {a d : Directory} (h : Eases o a d) (f : Alerts → Alerts) :
    Eases o a (d.modAlerts f) := h.of_same rfl rfl rfl le_rfl

theorem Eases.addScore {o : Option SlotId} {a d : Directory} (h : Eases o a d) (k : Agent) (n : Nat) :
    Eases o a (d.addScore k n) := h.modAgent k ⟨rfl, rfl, rfl⟩ (.inr id)

theorem Eases.creditScore {o : Option SlotId} {a d : Directory} (h : Eases o a d) (k : Agent) :
    Eases o a (d.creditScore k) := h.modAgent k ⟨rfl, rfl, rfl⟩ (.inr id)

/-! ### Notices -/

theorem Eases.markNotice {o : Option SlotId} {a d : Directory} (h : Eases o a d) (i : SlotId) (k : Agent) (n : NoticeStatus) :
    Eases o a (d.markNotice i k n) := h.modContext i fun c => c.alike_markNotice k n

theorem Eases.fillPlace {o : Option SlotId} {a d : Directory} (h : Eases o a d) {k : Agent} (hk : a.MayNotify o k) :
    Eases o a (d.fillPlace k) := by
  unfold Directory.fillPlace
  split
  · split
    · exact h.modAgent k ⟨rfl, rfl, rfl⟩ (.inl hk)
    · split
      · exact (h.modAgent k ⟨rfl, rfl, rfl⟩ (.inl hk)).markNotice _ k _
      · exact h
  · exact h

/-- An agent with a notice in its queue. -/
theorem Eases.mayNotify_of_notice {o : Option SlotId} {a d : Directory} (h : Eases o a d) {k : Agent}
    (hk : (d.agent k).notices ≠ []) : a.MayNotify o k := h.mayNotify (.inl fun hs => hk hs.1)

theorem Eases.withdrawRecall {o : Option SlotId} {a d : Directory} (h : Eases o a d) (i : SlotId) (k : Agent) :
    Eases o a (d.withdrawRecall i k) := by
  unfold Directory.withdrawRecall
  split
  · next hr =>
    have hk : a.MayNotify o k := h.mayNotify_of_notice fun e => by simp [AgentRecord.holdsRecall, e] at hr
    exact (h.modAgent k ⟨rfl, rfl, rfl⟩ (.inl hk)).fillPlace hk
  · exact h

theorem Eases.withdrawAll {o : Option SlotId} {a d : Directory} (h : Eases o a d) (i : SlotId) :
    Eases o a (d.withdrawAll i) := h.foldl _ (fun d k => (Eases.refl o d).withdrawRecall i k) _

theorem Eases.takeNotice {o : Option SlotId} {a d : Directory} (h : Eases o a d) {k : Agent} {n : Notice}
    (hn : n ∈ (d.agent k).notices) : Eases o a (d.takeNotice k n) := by
  have hk : a.MayNotify o k := h.mayNotify_of_notice (List.ne_nil_of_mem hn)
  have g := h.modAgent k (f := fun r => { r with notices := r.notices.tail }) ⟨rfl, rfl, rfl⟩ (.inl hk)
  unfold Directory.takeNotice
  dsimp only
  split
  · exact (g.markNotice _ k _).fillPlace hk
  · exact g.fillPlace hk

theorem Eases.placeRecall {o : Option SlotId} {a d : Directory} (h : Eases o a d) (i : SlotId) {k : Agent}
    (hk : a.MayNotify o k) : Eases o a (d.placeRecall i k) := by
  unfold Directory.placeRecall
  split
  · exact h
  · exact (h.modAgent k (AgentRecord.alike_placeRecall _ _ _ _) (.inl hk)).markNotice i k _

theorem Eases.placeRecallAgain {o : Option SlotId} {a d : Directory} (h : Eases o a d) (i : SlotId) {k : Agent}
    (hk : a.MayNotify o k) : Eases o a (d.placeRecallAgain i k) := by
  unfold Directory.placeRecallAgain
  split
  · exact h
  · exact h.placeRecall i hk

theorem Eases.awaitVerdict {o : Option SlotId} {a d : Directory} (h : Eases o a d) (i : SlotId) (k : Agent) :
    Eases o a (d.awaitVerdict i k) := h.modContext i fun c => c.alike_markVerdict k true

/-- An update of every window that eases it and keeps its holdings. -/
theorem Eases.of_every {d d' : Directory} (o : Option SlotId) (f : Window → Window) (hw : ∀ i, d'.window i = (d.window i).map f)
    (hf : ∀ w : Window, w.Eases (f w) ∧ (f w).holdings = w.holdings) (ha : d'.agents = d.agents) (hp : d'.parked = d.parked)
    (hc : d'.completions = d.completions) : Eases o d d' := by
  have agents : ∀ k, d'.agent k = d.agent k := fun k => by simp [Directory.agent, ha]
  refine ⟨fun j => ?_, fun k => by rw [agents], fun k => by rw [agents], fun k => by rw [agents], fun x => ?_,
    fun k hk => by rw [agents]; exact (Eases.refl o d).notices k hk, hp, by rw [hc]⟩
  · rw [hw]
    cases d.window j with
    | none => exact .none
    | some w => exact .some (hf w).1
  · refine countsHoldings_congr x (fun k i => ?_) fun k => by rw [agents]
    rw [heldAt, heldAt, hw]
    cases d.window i with
    | none => rfl
    | some w => simp [Window.holding, (hf w).2]

theorem eases_verdictGiven (o : Option SlotId) (d : Directory) (k : Agent) : Eases o d (d.verdictGiven k) :=
  .of_every o _ (window_verdictGiven d k) (fun w => ⟨w.eases_modContext fun c => c.alike_markVerdict k false, rfl⟩) rfl rfl rfl

theorem eases_advance (o : Option SlotId) (d : Directory) (now : Tick) : Eases o d (d.advance now) :=
  .of_every o _ (window_advance d now) (fun w => ⟨w.eases_advance now, rfl⟩) rfl rfl rfl

end Directory

end Sys2Proof.Machine
end

section
/-! SUPPORT. Merging a target and revoking a holding (R99, R100, R101, R109): both ease the window they work on. -/

namespace Sys2Proof.Machine

open Sys2Proof.Safety

/-! ### Targets (R99) -/

theorem strengthen_le_present {l₀ : Level} (l : Level) : (strengthen (some l₀) l).holding.rank ≤ l₀.holding.rank := by
  cases l₀ <;> cases l <;> decide

theorem strengthen_le_named (p : Option Level) (l : Level) : (strengthen p l).holding.rank ≤ l.holding.rank := by
  rcases p with _ | _ | _ <;> cases l <;> decide

theorem above_iff {h : Holding} {l : Level} : h.above l = true ↔ l.holding.rank < h.rank := decide_eq_true_iff

theorem ne_none_of_above {h : Holding} {l : Level} (g : h.above l = true) : h ≠ .none := by
  rintro rfl
  simp [above_iff, Holding.rank] at g

theorem aboveTarget_iff {w : Window} {c : RecallContext} {k : Agent} {l : Level} (h : look c.targets k = some l) :
    AboveTarget w c k ↔ (w.holding k).above l = true := by simp [AboveTarget, h]

/-- An agent in a set holds more than its target, and so holds (R96). -/
theorem holds_of_member {w : Window} {c : RecallContext} {k : Agent} (h : CellSound w c k)
    (hm : (look c.members k).isMember = true) : ∃ l, look c.targets k = some l ∧ (w.holding k).above l = true := by
  have : AboveTarget w c k := by
    rcases (Bool.or_eq_true _ _).mp hm with hm | hm
    · exact (h.1 hm).1
    · exact (h.2.1 hm).1
  simpa [AboveTarget] using this

/-- While it holds there, the agent is asked to come down at least to the level. -/
def Window.Asks (w : Window) (k : Agent) (l : Level) : Prop :=
  w.holding k ≠ .none → ∃ t, w.target k = some t ∧ t.holding.rank ≤ l.holding.rank

theorem Window.Eases.asks {w w' : Window} (h : w.Eases w') {k : Agent} {l : Level} (g : w.Asks k l) : w'.Asks k l := by
  intro hk
  obtain ⟨t, ht, hr⟩ := g (held_before (h.lowers k) hk)
  obtain ⟨t', ht', hr'⟩ := h.targets k hk t ht
  exact ⟨t', ht', hr'.trans hr⟩

/-! ### The cells that merging and revoking leave -/

/-- The context with agent `k`'s target and place rewritten. -/
def RecallContext.withCell (c : RecallContext) (k : Agent) (t : Level) (m : Membership) (forced : BitVec 8) : RecallContext :=
  { c with targets := put c.targets k (some t), members := put c.members k m, forcedCount := forced }

/-- The window with agent `k`'s cell rewritten. -/
def Window.withCell (w : Window) (c : RecallContext) (k : Agent) (h : Holding) (pins : Vector (BitVec 4) 8) (t : Level)
    (m : Membership) (forced : BitVec 8) : Window :=
  { w with holdings := put w.holdings k h, pins := pins, context := some (c.withCell k t m forced) }

theorem Window.target_withCell (w : Window) (c : RecallContext) (k : Agent) (h : Holding) (pins : Vector (BitVec 4) 8)
    (t : Level) (m : Membership) (forced : BitVec 8) : (w.withCell c k h pins t m forced).target k = some t := by
  simp [Window.target, Window.withCell, RecallContext.withCell]

theorem Window.holding_withCell (w : Window) (c : RecallContext) (k j : Agent) (h : Holding) (pins : Vector (BitVec 4) 8)
    (t : Level) (m : Membership) (forced : BitVec 8) :
    (w.withCell c k h pins t m forced).holding j = if j = k then h else w.holding j := by
  simp [Window.holding, Window.withCell]

/-- A cell rewritten with a stronger target, a holding not higher and the place that follows. -/
theorem Window.eases_withCell {w : Window} {c : RecallContext} {k : Agent} {h : Holding} {pins : Vector (BitVec 4) 8}
    {t : Level} {m : Membership} {forced : BitVec 8} (hc : w.context = some c) (low : h.rank ≤ (w.holding k).rank)
    (hp : ∀ j, j ≠ k → look pins j = w.pinCount j)
    (ht : ∀ l, look c.targets k = some l → t.holding.rank ≤ l.holding.rank)
    (out : CellSound w c k → m.isOutstanding = true → h.above t = true ∧ look pins k = 0)
    (blk : CellSound w c k → m.isBlocked = true → h.above t = true ∧ look pins k ≠ 0)
    (mem : CellSound w c k → h.above t = true → m.isMember = true) :
    w.Eases (w.withCell c k h pins t m forced) := by
  have target : look (c.withCell k t m forced).targets k = some t := by simp [RecallContext.withCell]
  have member : look (c.withCell k t m forced).members k = m := by simp [RecallContext.withCell]
  have holding : (w.withCell c k h pins t m forced).holding k = h := by simp [Window.holding_withCell]
  refine .of_cell k hc rfl rfl id ⟨rfl, rfl, id⟩ (fun j hj => ⟨?_, hp j hj, ?_, ?_⟩) ?_ (fun _ l hl => ⟨t, target, ht l hl⟩)
    fun hs => ?_
  · simp [Window.holding_withCell, hj]
  · simp [RecallContext.withCell, hj]
  · simp [RecallContext.withCell, hj]
  · rw [holding]; exact low
  · unfold CellSound
    rw [aboveTarget_iff target, member, holding]
    exact ⟨out hs, blk hs, mem hs⟩

/-- The record after a revocation: the count, the REVOKED, and the Detach Forced count (R109, R160). -/
def AgentRecord.revoked (a : AgentRecord) (i : SlotId) (f : NoticeFields) (before after : Holding) : AgentRecord :=
  (({ a with holdingCount := countAfter a.holdingCount before after } : AgentRecord).placeRevoked i f).countRevocation

theorem AgentRecord.revoked_keeps (a : AgentRecord) (i : SlotId) (f : NoticeFields) (before after : Holding) :
    (a.revoked i f before after).state = a.state ∧
      (a.revoked i f before after).detach.map (·.tag) = a.detach.map (·.tag) ∧
      (a.revoked i f before after).holdingCount = countAfter a.holdingCount before after := by
  have h := (({ a with holdingCount := countAfter a.holdingCount before after } : AgentRecord).alike_placeRevoked i f).trans
    (AgentRecord.alike_countRevocation _)
  exact ⟨h.state, h.detach, h.count⟩

/-- A context that agent `k` has left by a revocation, which it counts (R94, R109). -/
def RecallContext.lifted (c : RecallContext) (k : Agent) : RecallContext :=
  { c.setMember k .neither with forcedCount := raised c.forcedCount 1 }

namespace Directory

/-- A holding lowered, with its pins cleared or not, as one change of the window and of the agent's record. -/
theorem lower_eq {d : Directory} {i : SlotId} {k : Agent} {w : Window} (h : Holding) (b : Bool) (hw : d.window i = some w) :
    (if b then (d.setHolding i k h).setPins i k 0 else d.setHolding i k h) =
      withAgent
        (withWindow d i
          { w with holdings := put w.holdings k h, pins := if b then put w.pins k 0 else w.pins }) k
        { d.agent k with holdingCount := countAfter (d.agent k).holdingCount (w.holding k) h } := by
  rw [setHolding_eq hw]
  cases b
  · rfl
  · simp only [if_true]
    rw [setPins_eq (w := { w with holdings := put w.holdings k h }) (by simp), withAgent_withWindow, withWindow_withWindow]

/-- A revocation, as one change of the window and of the agent's record. -/
theorem revoke_eq {d : Directory} {i : SlotId} {k : Agent} {w : Window} {c : RecallContext} {l : Level} (force : Bool)
    (hw : d.window i = some w) (hc : w.context = some c) (ht : look c.targets k = some l) :
    d.revoke i k force =
      withAgent
        (withWindow d i
          { w with
            holdings := put w.holdings k ((w.holding k).lowered l)
            pins := if force || l == .none then put w.pins k 0 else w.pins
            context := some (c.lifted k) }) k
        ((d.agent k).revoked i (d.noticeFields i w) (w.holding k) ((w.holding k).lowered l)) := by
  have hr : d.recallOf i k = some (l, d.noticeFields i w) := by simp [Directory.recallOf, hw, hc, ht]
  unfold Directory.revoke
  rw [hr, hw]
  show ((if (force || l == .none) = true then (d.setHolding i k ((w.holding k).lowered l)).setPins i k 0
    else d.setHolding i k ((w.holding k).lowered l)).modContext i (·.lifted k)).modAgent k _ = _
  rw [lower_eq _ _ hw, modContext_eq (w := { w with
    holdings := put w.holdings k ((w.holding k).lowered l), pins := if force || l == .none then put w.pins k 0 else w.pins })
    (c := c) _ (by simp) hc]
  rw [withAgent_withWindow, withWindow_withWindow, modAgent_eq_withAgent, withAgent_withAgent, agent_withAgent, if_pos rfl]
  rfl

/-- Without a target there is nothing to revoke to (R109). -/
theorem revoke_eq_self {d : Directory} {i : SlotId} {k : Agent} {force : Bool}
    (h : ∀ w, d.window i = some w → w.target k = none) : d.revoke i k force = d := by
  unfold Directory.revoke
  split
  · next w l f hw hr =>
    have := h w hw
    rw [Window.target] at this
    simp only [Directory.recallOf, hw, this, Option.map_none] at hr
    cases hr
  all_goals rfl

/-- The window after a revocation, as a cell. -/
theorem revoke_eq_withCell {d : Directory} {i : SlotId} {k : Agent} {w : Window} {c : RecallContext} {l : Level} (force : Bool)
    (hw : d.window i = some w) (hc : w.context = some c) (ht : look c.targets k = some l) :
    d.revoke i k force =
      withAgent
        (withWindow d i
          (w.withCell c k ((w.holding k).lowered l) (if force || l == .none then put w.pins k 0 else w.pins) l .neither
            (raised c.forcedCount 1))) k
        ((d.agent k).revoked i (d.noticeFields i w) (w.holding k) ((w.holding k).lowered l)) := by
  have e : put c.targets k (some l) = c.targets := by rw [← ht]; exact put_look _ _
  rw [revoke_eq force hw hc ht, Window.withCell, RecallContext.withCell, e]
  rfl

/-- A cell after a revocation to target `t`, at or below the target before. -/
theorem eases_revoked {w : Window} {c : RecallContext} {k : Agent} {t : Level} {pins : Vector (BitVec 4) 8} {forced : BitVec 8}
    (hc : w.context = some c) (ht : ∀ l, look c.targets k = some l → t.holding.rank ≤ l.holding.rank)
    (hp : ∀ j, j ≠ k → look pins j = w.pinCount j) :
    w.Eases (w.withCell c k ((w.holding k).lowered t) pins t .neither forced) :=
  w.eases_withCell hc (rank_lowered_le _ _) hp ht (fun _ h => nomatch h) (fun _ h => nomatch h)
    fun _ h => by simp [lowered_not_above] at h

theorem pins_revoked {w : Window} {k : Agent} (b : Bool) (j : Agent) (hj : j ≠ k) :
    look (if b then put w.pins k 0 else w.pins) j = w.pinCount j := by
  cases b <;> simp [Window.pinCount, hj]

/-- A revocation of an agent that holds in the window where its recall runs. -/
theorem Eases.revoke {o : Option SlotId} {a d : Directory} (h : Eases o a d) {i : SlotId} (ho : o = some i) (k : Agent)
    (force : Bool) (hk : ∀ w, d.window i = some w → SetsSound w → w.holding k ≠ .none) : Eases o a (d.revoke i k force) := by
  subst ho
  cases ht : (d.window i).bind (·.target k) with
  | none =>
    rw [revoke_eq_self]
    · exact h
    · intro w hw
      simpa [hw] using ht
  | some l =>
    obtain ⟨w, hw, ht⟩ := Option.bind_eq_some_iff.1 ht
    obtain ⟨c, hc, ht⟩ := Option.bind_eq_some_iff.1 ht
    rw [revoke_eq_withCell force hw hc ht]
    obtain ⟨h1, h2, h3⟩ :=
      (d.agent k).revoked_keeps i (d.noticeFields i w) (w.holding k) ((w.holding k).lowered l)
    refine h.trans (.cell hw (eases_revoked hc (fun l' hl' => ?_) (pins_revoked _)) (fun j hj => ?_) h1 h2 (h3.trans ?_)
      (.inl (hk w hw)))
    · rw [ht] at hl'
      cases hl'
      exact le_rfl
    · simp [Window.holding_withCell, hj]
    · simp [Window.holding_withCell]

end Directory

end Sys2Proof.Machine
end

section
/-! SUPPORT. Merging the targets of a cause and turning force on (R99, R100, R101). -/

namespace Sys2Proof.Machine

open Sys2Proof.Safety

namespace Directory

/-- A target named, with the agent's place rewritten in one go. -/
theorem setTarget_setMember {d : Directory} {i : SlotId} {k : Agent} {w : Window} {c : RecallContext} {t : Level}
    {m : Membership} (hw : d.window i = some w) (hc : w.context = some c) :
    (d.modContext i (·.setTarget k (some t))).modContext i (·.setMember k m) =
      withWindow d i (w.withCell c k (w.holding k) w.pins t m c.forcedCount) := by
  have e : put w.holdings k (w.holding k) = w.holdings := put_look _ _
  rw [modContext_eq _ hw hc, modContext_eq (w := { w with context := some (c.setTarget k (some t)) })
    (c := c.setTarget k (some t)) _ (by simp) rfl, withWindow_withWindow, Window.withCell, e]
  rfl

theorem setTarget_eq {d : Directory} {i : SlotId} {k : Agent} {w : Window} {c : RecallContext} {t : Level}
    (hw : d.window i = some w) (hc : w.context = some c) :
    d.modContext i (·.setTarget k (some t)) =
      withWindow d i (w.withCell c k (w.holding k) w.pins t (look c.members k) c.forcedCount) := by
  have e : put w.holdings k (w.holding k) = w.holdings := put_look _ _
  have e' : put c.members k (look c.members k) = c.members := put_look _ _
  rw [modContext_eq _ hw hc, Window.withCell, RecallContext.withCell, e, e']
  rfl

/-- A target named, and the agent revoked to it. -/
theorem setTarget_revoke {d : Directory} {i : SlotId} {k : Agent} {w : Window} {c : RecallContext} {t : Level}
    (hw : d.window i = some w) (hc : w.context = some c) :
    ∃ pins forced r, (∀ j, j ≠ k → look pins j = w.pinCount j) ∧
      r.state = (d.agent k).state ∧ r.detach.map (·.tag) = (d.agent k).detach.map (·.tag) ∧
      r.holdingCount = countAfter (d.agent k).holdingCount (w.holding k) ((w.holding k).lowered t) ∧
      (d.modContext i (·.setTarget k (some t))).revoke i k true =
        withAgent (withWindow d i (w.withCell c k ((w.holding k).lowered t) pins t .neither forced)) k r := by
  have e : put w.holdings k (w.holding k) = w.holdings := put_look _ _
  obtain ⟨h1, h2, h3⟩ := (d.agent k).revoked_keeps i
    ((withWindow d i { w with context := some (c.setTarget k (some t)) }).noticeFields i
      { w with context := some (c.setTarget k (some t)) }) (w.holding k) ((w.holding k).lowered t)
  refine ⟨put w.pins k 0, raised c.forcedCount 1, _, fun j hj => pins_revoked true j hj, h1, h2, h3, ?_⟩
  rw [modContext_eq _ hw hc, revoke_eq_withCell (w := { w with context := some (c.setTarget k (some t)) })
    (c := c.setTarget k (some t)) (l := t) true (by simp) rfl (by simp)]
  simp only [Bool.true_or, if_true, withWindow_withWindow, agent_withWindow]
  simp only [Window.withCell, RecallContext.withCell, RecallContext.setTarget, put_put]
  rfl

/-- What a merged target does: one cell of the window is rewritten, with the target in it, and then a RECALL may be placed. -/
structure Merged (d d' : Directory) (i : SlotId) (k : Agent) (t : Level) : Prop where
  shape : ∃ e, Eases (some i) d e ∧ Eases (some i) e d' ∧ ∃ v, e.window i = some v ∧ v.target k = some t

theorem Merged.of_window {d : Directory} {i : SlotId} {k : Agent} {w : Window} {c : RecallContext} {t : Level} {m : Membership}
    {d' : Directory} (hw : d.window i = some w)
    (he : w.Eases (w.withCell c k (w.holding k) w.pins t m c.forcedCount))
    (hd : Eases (some i) (withWindow d i (w.withCell c k (w.holding k) w.pins t m c.forcedCount)) d') :
    Merged d d' i k t :=
  ⟨_, .cell_window hw he fun j => by rw [Window.holding_withCell]; split <;> simp_all, hd, _, (window_withWindow ..).trans (if_pos rfl),
    Window.target_withCell ..⟩

/-- Merging a target for an agent of a window whose recall runs (R99, R100). -/
theorem mergeTarget_merged {d : Directory} {i : SlotId} {w : Window} {c : RecallContext} (now : Tick) (b : Bool) (k : Agent)
    (l : Level) (hw : d.window i = some w) (hc : w.context = some c) :
    Merged d (d.mergeTarget now b i k l) i k (strengthen (look c.targets k) l) := by
  generalize ht : strengthen (look c.targets k) l = t
  have stronger : ∀ l₀, look c.targets k = some l₀ → t.holding.rank ≤ l₀.holding.rank := by
    intro l₀ h
    rw [← ht, h]
    exact strengthen_le_present l
  have keepPins : ∀ j, j ≠ k → look w.pins j = w.pinCount j := fun _ _ => rfl
  have above_of_member : CellSound w c k → (look c.members k).isMember = true → (w.holding k).above t = true := by
    intro hs hm
    obtain ⟨l₀, hl₀, ha⟩ := holds_of_member hs hm
    exact above_iff.2 ((stronger l₀ hl₀).trans_lt (above_iff.1 ha))
  have revoked : (SetsSound w → w.holding k ≠ .none) →
      Merged d ((d.modContext i (·.setTarget k (some t))).revoke i k true) i k t := by
    intro hh
    obtain ⟨pins, forced, r, hp, h1, h2, h3, e⟩ := setTarget_revoke (k := k) (t := t) hw hc
    rw [e]
    refine ⟨_, .cell hw (eases_revoked hc stronger hp) (fun j hj => ?_) h1 h2 (h3.trans ?_) (.inl hh), .refl _ _, _,
      (window_withWindow ..).trans (if_pos rfl), Window.target_withCell ..⟩
    · simp [Window.holding_withCell, hj]
    · simp [Window.holding_withCell]
  have stays : (look c.members k ≠ .neither ∨ (w.holding k).above t = false) →
      w.Eases (w.withCell c k (w.holding k) w.pins t (look c.members k) c.forcedCount) := by
    intro h
    refine w.eases_withCell hc le_rfl keepPins stronger (fun hs hm => ?_) (fun hs hm => ?_) fun hs ha => ?_
    · exact ⟨above_of_member hs (by simp [Membership.isMember, hm]), (hs.1 hm).2⟩
    · exact ⟨above_of_member hs (by simp [Membership.isMember, hm]), (hs.2.1 hm).2⟩
    · rcases h with h | h
      · cases hm : look c.members k <;> simp_all [Membership.isMember, Membership.isOutstanding, Membership.isBlocked]
      · simp [h] at ha
  unfold Directory.mergeTarget
  simp only [hw, hc, ht]
  cases hm : look c.members k with
  | neither =>
    simp only
    split
    · next ha =>
      split
      · next hp =>
        unfold Directory.enterOutstanding
        simp only
        rw [setTarget_setMember hw hc]
        refine .of_window (m := .outstanding _) hw (w.eases_withCell hc le_rfl keepPins stronger (fun _ _ => ⟨ha, hp⟩)
          (fun _ h => absurd h Bool.false_ne_true)
          fun _ _ => rfl) ((Eases.refl _ _).placeRecall i (.inr ⟨i, rfl, _, by simp; rfl, fun _ => ?_⟩))
        simpa [Window.holding_withCell] using ne_none_of_above ha
      · next hp =>
        split
        · exact revoked fun _ => ne_none_of_above ha
        · rw [setTarget_setMember hw hc]
          exact .of_window (m := .blocked) hw (w.eases_withCell hc le_rfl keepPins stronger (fun _ h => absurd h Bool.false_ne_true)
            (fun _ _ => ⟨ha, hp⟩)
            fun _ _ => rfl) (.refl _ _)
    · next ha =>
      rw [setTarget_eq hw hc]
      exact .of_window hw (stays (.inr (by simpa using ha))) (.refl _ _)
  | outstanding x =>
    have hs := stays (.inl (by simp [hm]))
    simp only
    split
    · rw [setTarget_eq hw hc]
      exact .of_window hw hs (.refl _ _)
    · rw [setTarget_eq hw hc]
      refine .of_window hw hs ((Eases.refl _ _).placeRecallAgain i (.inr ⟨i, rfl, _, by simp; rfl, fun hv => ?_⟩))
      obtain ⟨_, _, ha⟩ := holds_of_member (hv _ rfl k) (by simp [RecallContext.withCell, hm, Membership.isMember,
        Membership.isOutstanding])
      exact ne_none_of_above ha
  | blocked =>
    simp only
    split
    · refine revoked fun hs => ?_
      exact ne_none_of_above (above_of_member (hs c hc k) (by simp [hm, Membership.isMember, Membership.isBlocked]))
    · rw [setTarget_eq hw hc]
      exact .of_window hw (stays (.inl (by simp [hm]))) (.refl _ _)

theorem Eases.mergeTarget {a d : Directory} {i : SlotId} (h : Eases (some i) a d) (now : Tick) (b : Bool) (k : Agent)
    (l : Level) : Eases (some i) a (d.mergeTarget now b i k l) := by
  cases hw : d.window i with
  | none => simpa [Directory.mergeTarget, hw] using h
  | some w =>
    cases hc : w.context with
    | none => simpa [Directory.mergeTarget, hw, hc] using h
    | some c =>
      obtain ⟨e, h1, h2, _⟩ := mergeTarget_merged now b k l hw hc
      exact h.trans (h1.trans h2)

theorem Eases.mergeTargets {a d : Directory} {i : SlotId} (h : Eases (some i) a d) (now : Tick) (ts : List (Agent × Level)) :
    Eases (some i) a (d.mergeTargets now i ts) :=
  h.foldl _ (fun d (t : Agent × Level) => (Eases.refl _ d).mergeTarget now false t.1 t.2) ts

/-- The agent named is asked to come down. -/
theorem asks_mergeTarget {d : Directory} {i : SlotId} {w : Window} {c : RecallContext} (now : Tick) (b : Bool) (k : Agent)
    (l : Level) (hw : d.window i = some w) (hc : w.context = some c) {v : Window}
    (hv : (d.mergeTarget now b i k l).window i = some v) : v.Asks k l := by
  obtain ⟨e, _, h2, u, hu, ht⟩ := mergeTarget_merged now b k l hw hc
  obtain ⟨u', hu', he⟩ := h2.window_some hv
  rw [hu] at hu'
  cases hu'
  exact he.asks fun _ => ⟨_, ht, strengthen_le_named _ _⟩

/-- Every agent named is asked to come down, once all targets are merged. -/
theorem asks_mergeTargets {i : SlotId} (now : Tick) (ts : List (Agent × Level)) {d : Directory} {w : Window}
    {c : RecallContext} (hw : d.window i = some w) (hc : w.context = some c) {v : Window}
    (hv : (d.mergeTargets now i ts).window i = some v) {k : Agent} {l : Level} (hk : (k, l) ∈ ts) : v.Asks k l := by
  induction ts generalizing d w c with
  | nil => cases hk
  | cons t ts ih =>
    obtain ⟨w', hw', he⟩ := ((Eases.refl (some i) d).mergeTarget now false t.1 t.2).window_some' hw
    rcases List.mem_cons.1 hk with rfl | hk
    · have first := asks_mergeTarget now false k l hw hc hw'
      obtain ⟨u, hu, hv'⟩ := ((Eases.refl (some i) (d.mergeTarget now false i k l)).mergeTargets now ts).window_some hv
      rw [hw'] at hu
      cases hu
      exact hv'.asks first
    · cases hc' : w'.context with
      | some c' => exact ih hw' hc' hv hk
      | none => simpa [hc, hc'] using he.running

/-- The Blocked set revoked at once (R101). -/
theorem Eases.revokeBlocked {a d : Directory} {i : SlotId} (h : Eases (some i) a d) : Eases (some i) a (d.revokeBlocked i) := by
  refine h.foldl _ (fun d k => ?_) _
  split
  · next hb =>
    refine (Eases.refl _ d).revoke rfl k true fun w hw hs => ?_
    cases hc : w.context with
    | none => simp [Directory.member, Directory.context, hw, hc, Membership.isBlocked] at hb
    | some c =>
      rw [member_of_context hw hc] at hb
      obtain ⟨_, _, ha⟩ := holds_of_member (hs c hc k) (by simp [Membership.isMember, hb])
      exact ne_none_of_above ha
  · exact .refl _ d

theorem Eases.setForce {o : Option SlotId} {a d : Directory} (h : Eases o a d) (i : SlotId) (b : Bool) :
    Eases o a (d.setForce i b) := h.modContext i fun _ => ⟨rfl, rfl, rfl, rfl, fun _ => rfl, fun _ => rfl⟩

theorem Eases.turnForceOn {a d : Directory} {i : SlotId} (h : Eases (some i) a d) : Eases (some i) a (d.turnForceOn i) :=
  (h.setForce i true).revokeBlocked

end Directory

end Sys2Proof.Machine
end

section
/-! SUPPORT. The changes of one holding, pin count or wait by a request or a deadline (R65, R76, R78, R79, R106, R111, R158): each
eases its window. -/

namespace Sys2Proof.Machine

open Sys2Proof.Safety

/-! ### Windows -/

/-- In a window without a context, a holding falls. -/
theorem Window.eases_of_closed {w w' : Window} (hc : w.context = none)
    (frame : { w with lastGrant := w'.lastGrant, idle := w'.idle, holdings := w'.holdings, pins := w'.pins } = w')
    (idle : IdleNeedsLimit w → IdleNeedsLimit w') (lower : ∀ k, (w'.holding k).rank ≤ (w.holding k).rank) : w.Eases w' := by
  have hc' : w'.context = none := by rw [← frame]; exact hc
  have rest : w'.fields = w.fields ∧ w'.revision = w.revision ∧ w'.retireTag = w.retireTag ∧ w'.watch = w.watch ∧
      w'.waiters = w.waiters := by rw [← frame]; exact ⟨rfl, rfl, rfl, rfl, rfl⟩
  obtain ⟨h1, h2, h3, h4, h5⟩ := rest
  refine ⟨h1, h2, h3, h4, fun x hx => h5 ▸ hx, idle, by simp [hc, hc'], by simp [hc, hc'], by simp [hc, hc'],
    fun _ c h => ?_, lower, fun k _ t ht => ?_, fun _ c h => ?_⟩
  · simp [hc'] at h
  · simp [Window.target, hc] at ht
  · simp [hc'] at h

/-- Agent `k`'s place rewritten in a context. -/
theorem look_members_setMember (c : RecallContext) (k j : Agent) (m : Membership) (h : j ≠ k) :
    look (c.setMember k m).members j = look c.members j := by simp [h]

/-- A pin count set where the agent's place allows it. -/
theorem Window.eases_pins {w : Window} {k : Agent} {n : BitVec 4} (now : Tick)
    (h : ∀ c, w.context = some c → CellSound w c k →
      ((look c.members k).isOutstanding = true → n = 0) ∧ ((look c.members k).isBlocked = true → n ≠ 0)) :
    w.Eases ((w.setPins k n).granted now) := by
  cases hc : w.context with
  | none => exact Window.eases_of_closed hc rfl (fun _ => idleNeedsLimit_armIdle _ now) fun _ => le_rfl
  | some c =>
    refine .of_cell k hc hc rfl (fun _ => idleNeedsLimit_armIdle _ now) ⟨rfl, rfl, id⟩
      (fun j hj => ⟨rfl, by simp [hj], rfl, rfl⟩) le_rfl (fun _ t ht => ⟨t, ht, le_rfl⟩) fun hs => ?_
    obtain ⟨ho, hb⟩ := h c hc hs
    unfold CellSound
    rw [pinCount_granted, pinCount_setPins, if_pos rfl]
    exact ⟨fun hm => ⟨(hs.1 hm).1, ho hm⟩, fun hm => ⟨(hs.2.1 hm).1, hb hm⟩, hs.2.2⟩

/-- The last pin of a Blocked agent gone, and the agent in the Outstanding set (R79). -/
theorem Window.eases_unpinned {w : Window} {c : RecallContext} {k : Agent} (now : Tick) (x : Wait) (hc : w.context = some c)
    (hb : (look c.members k).isBlocked = true) :
    w.Eases (((w.setPins k 0).granted now).modContext (·.setMember k (.outstanding x))) := by
  refine .of_cell (c' := c.setMember k (.outstanding x)) k hc (congrArg (Option.map _) hc) rfl
    (fun _ => idleNeedsLimit_armIdle _ now) ⟨rfl, rfl, id⟩
    (fun j hj => ⟨rfl, by simp [hj], rfl, look_members_setMember c k j _ hj⟩) le_rfl (fun _ t ht => ⟨t, ht, le_rfl⟩)
    fun hs => ?_
  have ha := (hs.2.1 hb).1
  unfold CellSound
  rw [members_setMember, if_pos rfl, pinCount_modContext, pinCount_granted, pinCount_setPins, if_pos rfl]
  exact ⟨fun _ => ⟨ha, rfl⟩, fun h => absurd h Bool.false_ne_true, fun _ => rfl⟩

/-- A holding that an agent releases, with its place in the recall as R111 and R112 leave it. -/
theorem Window.eases_released {w : Window} {c : RecallContext} {k : Agent} {h : Holding} (hc : w.context = some c)
    (low : h.rank ≤ (w.holding k).rank) :
    w.Eases
      { w with
        holdings := put w.holdings k h
        pins := if h = .none then put w.pins k 0 else w.pins
        context := some (if (look c.members k).isMember && c.satisfied k h then c.setMember k .neither else c) } := by
  have pins : ∀ j, j ≠ k → look (if h = .none then put w.pins k 0 else w.pins) j = w.pinCount j := by
    intro j hj
    split <;> simp [Window.pinCount, hj]
  refine .of_cell k hc rfl rfl id ?_ (fun j hj => ⟨by simp [Window.holding, hj], pins j hj, ?_, ?_⟩)
    (by simpa [Window.holding] using low) (fun _ t ht => ⟨t, ?_, le_rfl⟩) fun hs => ?_
  · split <;> exact ⟨rfl, rfl, id⟩
  · split <;> rfl
  · split
    · simp [hj]
    · rfl
  · split <;> exact ht
  · unfold CellSound AboveTarget
    simp only [Window.holding, Window.pinCount, look_put, if_true]
    split
    · next hsat =>
      simp only [Bool.and_eq_true] at hsat
      have notAbove : ¬ ∃ l ∈ look c.targets k, h.above l = true := by
        rintro ⟨l, hl, ha⟩
        simp [RecallContext.satisfied, Option.mem_def.1 hl, ha] at hsat
      rw [members_setMember, if_pos rfl]
      exact ⟨fun h => absurd h Bool.false_ne_true, fun h => absurd h Bool.false_ne_true, fun ha => absurd ha notAbove⟩
    · next hsat =>
      have still : (look c.members k).isMember = true → ∃ l ∈ look c.targets k, h.above l = true := by
        intro hm
        obtain ⟨l, hl, _⟩ := holds_of_member hs hm
        have : c.satisfied k h = false := by simpa [hm] using hsat
        exact ⟨l, hl, by simpa [RecallContext.satisfied, hl] using this⟩
      have keep : (look c.members k).isMember = true → look (if h = .none then put w.pins k 0 else w.pins) k = w.pinCount k := by
        intro hm
        obtain ⟨l, _, ha⟩ := still hm
        rw [if_neg (ne_none_of_above ha)]
        rfl
      refine ⟨fun hm => ?_, fun hm => ?_, fun ⟨l, hl, ha⟩ => hs.2.2 ⟨l, hl, above_iff.2 ((above_iff.1 ha).trans_le low)⟩⟩
      · have hm' : (look c.members k).isMember = true := by simp [Membership.isMember, hm]
        exact ⟨still hm', (keep hm').trans (hs.1 hm).2⟩
      · have hm' : (look c.members k).isMember = true := by simp [Membership.isMember, hm]
        exact ⟨still hm', by rw [keep hm']; exact (hs.2.1 hm).2⟩

/-- A context in which DETACH asks for an agent has a cause (R95). -/
theorem causeless_of_detach {c : RecallContext} {k : Agent} (h : look c.detachAgents k = true) : c.causeless = false := by
  have : c.detach = true := by
    rw [RecallContext.detach, List.any_eq_true]
    exact ⟨k, List.mem_finRange k, h⟩
  simp [RecallContext.causeless, this]

namespace Directory

/-! ### The directory -/

/-- A pin count set, with the qualifying grant of R66. -/
theorem Eases.pin {d : Directory} {i : SlotId} {k : Agent} {n : BitVec 4} (now : Tick)
    (h : ∀ w c, d.window i = some w → w.context = some c → CellSound w c k →
      ((look c.members k).isOutstanding = true → n = 0) ∧ ((look c.members k).isBlocked = true → n ≠ 0)) (o : Option SlotId) :
    Eases o d ((d.setPins i k n).modWindow i (·.granted now)) := by
  rw [Directory.setPins, modWindow_modWindow]
  exact (Eases.refl o d).modWindow i fun w hw => ⟨w.eases_pins now fun c hc => h w c hw hc, rfl⟩

/-- The wait of an Outstanding agent set. -/
theorem Eases.setWait {o : Option SlotId} {a d : Directory} (h : Eases o a d) {i : SlotId} {k : Agent} {x : Wait} (y : Wait)
    (hm : d.member i k = .outstanding x) : Eases o a (d.modContext i (·.setMember k (.outstanding y))) := by
  refine h.modWindow i fun w hw => ⟨?_, rfl⟩
  cases hc : w.context with
  | none => simp [Directory.member, Directory.context, hw, hc] at hm
  | some c =>
    rw [member_of_context hw hc] at hm
    exact .of_alike hc (c.alike_wait k x y hm) (by simp [Window.modContext, hc])

theorem Eases.addDetach {o : Option SlotId} {a d : Directory} (h : Eases o a d) (i : SlotId) (k : Agent) :
    Eases o a (d.addCause i (.detach k)) := by
  refine h.modWindow i fun w _ => ⟨?_, rfl⟩
  cases hc : w.context with
  | none =>
    rw [Window.modContext_eq_self hc]
    exact .refl w
  | some c =>
    exact .of_cell (c' := c.setDetachAgent k true) k hc (congrArg (Option.map _) hc) rfl id
      ⟨rfl, rfl, fun _ => causeless_of_detach (k := k) (by simp)⟩ (fun _ _ => ⟨rfl, rfl, rfl, rfl⟩) le_rfl
      (fun _ t ht => ⟨t, ht, le_rfl⟩) id

end Directory

end Sys2Proof.Machine
end

section
/-! SUPPORT. What an event does, in phases. A phase is one change after which the laws of file 01 and file 05 hold again, but for what its
mode says is still under way: a cause that has just left, a deadline not armed yet, an agent on its way out, a command between its
taking and its end. `Work` is what the Recall Controller does on a slot; that every event is made of phases is shown once, and each law
is then shown to be kept by every phase. -/

namespace Sys2Proof.Machine

open Sys2Proof.Safety

/-- What is under way between two phases of an event. -/
structure Mode where
  /-- Places of R177 that the event may still fill. -/
  places : Nat
  /-- The command taken, while the record that keeps its tag stands and it is not parked yet. -/
  flight : Parked → Prop
  /-- The tag of a parked command whose record is gone, and whose completion record is not written yet. -/
  ending : Tag → Prop
  /-- Slots whose context may have lost its last cause. -/
  frayed : SlotId → Prop
  /-- Slots whose idle deadline does not follow the new Idle Limit yet. -/
  unarmed : SlotId → Prop
  /-- Agents whose state has left DETACHING, or never was, before their detach in progress ends. -/
  departing : Agent → Prop
  /-- Where an agent out of service may still hold or wait. -/
  strays : Agent → SlotId → Prop

/-- Nothing is under way: the mode between two events. -/
def Mode.whole : Mode where
  places := 0
  flight _ := False
  ending _ := False
  frayed _ := False
  unarmed _ := False
  departing _ := False
  strays _ _ := False

/-- No agent out of service is left in the slot. -/
def Mode.Settled (m : Mode) (i : SlotId) : Prop := ∀ k, ¬ m.strays k i

def Mode.fray (m : Mode) (i : SlotId) : Mode := { m with frayed := fun j => m.frayed j ∨ j = i }

def Mode.mend (m : Mode) (i : SlotId) : Mode := { m with frayed := fun j => m.frayed j ∧ j ≠ i }

def Mode.unarm (m : Mode) (i : SlotId) : Mode := { m with unarmed := fun j => m.unarmed j ∨ j = i }

def Mode.rearm (m : Mode) (i : SlotId) : Mode := { m with unarmed := fun j => m.unarmed j ∧ j ≠ i }

/-- Agent `k` has left slot `i`. -/
def Mode.without (m : Mode) (k : Agent) (i : SlotId) : Mode := { m with strays := fun a j => m.strays a j ∧ ¬ (a = k ∧ j = i) }

/-- The agent's requests pass the Agent-state stage (R50). -/
def AgentRecord.Serves (a : AgentRecord) : Prop := a.state = .online ∨ a.state = .detaching

/-- An agent that the window does not have to let go of. -/
def Window.CanKeep (w : Window) (d : Directory) (k : Agent) : Prop :=
  (w.holding k = .none ∨ (d.agent k).Serves) ∧ ∀ x ∈ w.waiters, x.agent ≠ k

/-- In directory `d`, mode `n` says no less than `m`. -/
structure Mode.Relaxes (d : Directory) (m n : Mode) : Prop where
  same : { m with frayed := n.frayed, unarmed := n.unarmed, strays := n.strays } = n
  frayed : ∀ i, m.frayed i → n.frayed i ∨ ∀ w, d.window i = some w → CauseStands w
  unarmed : ∀ i, m.unarmed i → n.unarmed i
  strays : ∀ k i, m.strays k i → n.strays k i ∨ ∀ w, d.window i = some w → w.CanKeep d k

/-- A recall context without a lost agent (R115). -/
def RecallContext.strike (c : RecallContext) (k : Agent) : RecallContext :=
  ((c.setMember k .neither).setTarget k none).setDetachAgent k false

/-- A recall context without an agent whose detach ends (R161, R162). -/
def RecallContext.dismiss (c : RecallContext) (k : Agent) (untarget : Bool) : RecallContext :=
  if untarget then (c.setDetachAgent k false).setTarget k none else c.setDetachAgent k false

/-- Agent `k` struck from the window of slot `i` and from its recall (R164, step 2, a to c). -/
def Directory.strike (d : Directory) (k : Agent) (i : SlotId) : Directory :=
  ((((d.setHolding i k .none).setPins i k 0).unlist i k)).modContext i (·.strike k)

/-- A cause that starts a recall which needs no targets of its own. -/
def Cause.free : Cause → Prop
  | .waiter | .idle | .detach _ => True
  | .revision | .retire => False

/-- What the Recall Controller does on the windows, from one mode to the next. -/
inductive Work : Mode → Directory → Mode → Directory → Prop
  /-- A recall goes on. -/
  | ease {m : Mode} {o : Option SlotId} {d d' : Directory} (settled : ∀ i, o = some i → m.Settled i) (h : d.Eases o d') :
      Work m d m d'
  /-- A recall starts (R98). -/
  | create {m : Mode} {d : Directory} {i : SlotId} {cause : Cause} (force : Bool) (free : cause.free)
      (opened : ∀ w, d.window i = some w → w.context = none) : Work m d m (d.createContext i cause force)
  /-- A lost agent is struck from a window, whose context frays if DETACH was a cause for it (R115, R164). -/
  | strike {m : Mode} {d : Directory} (k : Agent) (i : SlotId) (frays : Bool)
      (stays : frays = false → ∀ c, d.context i = some c → look c.detachAgents k = false) :
      Work m d ((if frays then m.fray i else m).without k i) (d.strike k i)
  /-- DETACH is no cause for the agent any more; with its target gone too, it holds nothing (R161, R162). -/
  | dismiss {m : Mode} {d : Directory} {k : Agent} {untarget : Bool} (i : SlotId)
      (empty : untarget = true → (d.agent k).holdingCount = 0) :
      Work m d (m.fray i) (d.modContext i (·.dismiss k untarget))
  /-- A context without RETIRE and without a pending revision is removed (R116, R118). -/
  | drop {m : Mode} {d : Directory} (i : SlotId)
      (ends : ∀ w c, d.window i = some w → w.context = some c → c.retire = false ∧ (c.revision = false ∨ w.revision = none)) :
      Work m d (m.mend i) (d.modWindow i fun w => { w with context := none })
  /-- A pending revision is applied, no agent being waited for (R127). -/
  | apply {m : Mode} {d : Directory} {i : SlotId} {w : Window} {c : RecallContext} (window : d.window i = some w)
      (context : w.context = some c) (revises : c.revision = true) (keeps : c.retire = false) (ended : c.waits = false) :
      Work m d ((m.fray i).unarm i) (d.applyRevision i)
  /-- The idle deadline is armed again (R118). -/
  | rearm {m : Mode} {d : Directory} (i : SlotId) (now : Tick) : Work m d (m.rearm i) (d.modWindow i (·.armIdle now))
  /-- A retirement completes, no agent being waited for (R137). -/
  | retire {m : Mode} {d : Directory} {i : SlotId} {w : Window} {c : RecallContext} (window : d.window i = some w)
      (context : w.context = some c) (retires : c.retire = true) (ended : c.waits = false) :
      Work m d m (d.completeRetirement i)
  /-- Less is under way than the mode says. -/
  | relax {m n : Mode} {d : Directory} (h : m.Relaxes d n) : Work m d n d

/-- A chain of such work. -/
def Works (m : Mode) (d : Directory) (n : Mode) (e : Directory) : Prop :=
  Relation.ReflTransGen (fun x y : Mode × Directory => Work x.1 x.2 y.1 y.2) (m, d) (n, e)

theorem Works.refl (m : Mode) (d : Directory) : Works m d m d := Relation.ReflTransGen.refl

theorem Works.trans {m n p : Mode} {d e f : Directory} (h : Works m d n e) (g : Works n e p f) : Works m d p f :=
  Relation.ReflTransGen.trans h g

theorem Works.work {m n p : Mode} {d e f : Directory} (h : Works m d n e) (g : Work n e p f) : Works m d p f :=
  Relation.ReflTransGen.tail h g

/-- A law that every piece of work keeps is kept by a chain of them. -/
theorem Works.keeps {I : Mode → Directory → Prop} (keep : ∀ {m d n e}, Work m d n e → I m d → I n e) {m n : Mode}
    {d e : Directory} (h : Works m d n e) (g : I m d) : I n e := by
  suffices ∀ x y : Mode × Directory, Relation.ReflTransGen (fun x y : Mode × Directory => Work x.1 x.2 y.1 y.2) x y →
      I x.1 x.2 → I y.1 y.2 from this _ _ h g
  intro x y hxy hx
  induction hxy with
  | refl => exact hx
  | tail _ step ih => exact keep step ih

/-! ### What work leaves alone -/

/-- No agent's state or detach tag changes, no agent holds more windows, and no window appears. -/
structure Directory.Calm (d d' : Directory) : Prop where
  states : ∀ k, (d'.agent k).state = (d.agent k).state
  detaches : ∀ k, (d'.agent k).detach.map (·.tag) = (d.agent k).detach.map (·.tag)
  falls : ∀ k, (d'.agent k).holdingCount ≤ (d.agent k).holdingCount
  free : ∀ i, d.window i = none → d'.window i = none

namespace Directory

theorem Calm.refl (d : Directory) : d.Calm d := ⟨fun _ => rfl, fun _ => rfl, fun _ => le_rfl, fun _ h => h⟩

theorem Calm.trans {a b c : Directory} (h : a.Calm b) (g : b.Calm c) : a.Calm c :=
  ⟨fun k => (g.states k).trans (h.states k), fun k => (g.detaches k).trans (h.detaches k),
    fun k => (g.falls k).trans (h.falls k), fun i x => g.free i (h.free i x)⟩

theorem Eases.calm {o : Option SlotId} {d d' : Directory} (h : Eases o d d') : d.Calm d' :=
  ⟨h.states, h.detaches, h.falls, fun _ => h.window_none.2⟩

/-- An update of a window, with the agents as they were. -/
theorem Calm.of_agents {d d' : Directory} (ha : d'.agents = d.agents) (hw : ∀ i, d.window i = none → d'.window i = none) :
    d.Calm d' := by
  have : ∀ k, d'.agent k = d.agent k := fun k => by simp [Directory.agent, ha]
  exact ⟨fun k => by rw [this], fun k => by rw [this], fun k => by rw [this], hw⟩

theorem calm_modWindow (d : Directory) (i : SlotId) (f : Window → Window) : d.Calm (d.modWindow i f) :=
  .of_agents rfl fun j hj => by
    rw [window_modWindow, hj]
    split <;> rfl

theorem calm_freeSlot (d : Directory) (i : SlotId) : d.Calm (d.freeSlot i) := .of_agents rfl fun j hj => by simp [hj]

theorem calm_finish (d : Directory) (r : Record) : d.Calm (d.finish r) := .of_agents rfl fun _ h => h

theorem calm_setHolding_none (d : Directory) (i : SlotId) (k : Agent) : d.Calm (d.setHolding i k .none) := by
  cases hw : d.window i with
  | none => simpa [Directory.setHolding, hw] using Calm.refl d
  | some w =>
    have others : ∀ j, (d.setHolding i k .none).agent j =
        { d.agent j with holdingCount := ((d.setHolding i k .none).agent j).holdingCount } := fun j => agent_setHolding d i k j _
    refine ⟨fun j => by rw [others j], fun j => by rw [others j], fun j => ?_, fun j hj => by simp [hj]⟩
    rw [setHolding_eq hw, agent_withAgent]
    split
    · next e => subst e; exact countAfter_le (Nat.zero_le _)
    · exact le_rfl

theorem endWatch_eq (d : Directory) (i : SlotId) :
    d.endWatch i = d ∨ ∃ r, d.endWatch i = (d.modWindow i fun w => { w with watch := none }).finish r := by
  unfold Directory.endWatch
  split
  · exact .inl rfl
  · exact .inr ⟨_, rfl⟩

theorem calm_endWatch (d : Directory) (i : SlotId) : d.Calm (d.endWatch i) := by
  obtain h | ⟨r, h⟩ := d.endWatch_eq i
  · rw [h]; exact .refl d
  · rw [h]; exact (calm_modWindow d i _).trans (calm_finish _ r)

theorem calm_completeRetirement (d : Directory) (i : SlotId) : d.Calm (d.completeRetirement i) := by
  have closed := calm_modWindow d i fun w => { w with context := none }
  have quiet := closed.trans ((Eases.refl none _).withdrawAll i).calm
  have h := (quiet.trans (calm_endWatch _ i)).trans (calm_freeSlot _ i)
  unfold Directory.completeRetirement
  dsimp only
  split
  · exact h
  · exact h.trans (calm_finish _ _)

theorem calm_applyRevision (d : Directory) (i : SlotId) : d.Calm (d.applyRevision i) := by
  unfold Directory.applyRevision
  split
  · exact .refl d
  · exact (calm_modWindow d i _).trans (calm_finish _ _)

end Directory

theorem Work.calm {m n : Mode} {d e : Directory} (h : Work m d n e) : d.Calm e := by
  cases h with
  | ease _ h => exact h.calm
  | create => exact d.calm_modWindow _ _
  | strike k i =>
    exact (((d.calm_setHolding_none i k).trans (Directory.calm_modWindow _ i _)).trans
      (Directory.calm_modWindow _ i _)).trans (Directory.calm_modWindow _ i _)
  | dismiss => exact d.calm_modWindow _ _
  | drop => exact d.calm_modWindow _ _
  | apply => exact d.calm_applyRevision _
  | rearm => exact d.calm_modWindow _ _
  | retire => exact d.calm_completeRetirement _
  | relax => exact .refl d

theorem Works.calm {m n : Mode} {d e : Directory} (h : Works m d n e) : d.Calm e :=
  h.keeps (I := fun _ x => d.Calm x) (fun w g => g.trans w.calm) (.refl d)

end Sys2Proof.Machine
end

section
/-! SUPPORT. The Recall Controller's operations as work: head service, the completion stages, causes that leave, an agent struck from a
window, DETACH handed over (R84, R87, R115 to R118, R127, R137, R158, R164). -/

namespace Sys2Proof.Machine

open Sys2Proof.Safety

/-! ### Modes -/

/-- Mode `n` says no less than `m`, whatever the directory. -/
structure Mode.Within (m n : Mode) : Prop where
  same : { m with frayed := n.frayed, unarmed := n.unarmed, strays := n.strays } = n
  frayed : ∀ i, m.frayed i → n.frayed i
  unarmed : ∀ i, m.unarmed i → n.unarmed i
  strays : ∀ k i, m.strays k i → n.strays k i

theorem Mode.Within.relaxes {m n : Mode} (h : m.Within n) (d : Directory) : m.Relaxes d n :=
  ⟨h.same, fun i x => .inl (h.frayed i x), h.unarmed, fun k i x => .inl (h.strays k i x)⟩

/-- A slot that is closed and armed again is whole, frayed or not before. -/
theorem Mode.within_closed (m : Mode) (i : SlotId) : ((m.mend i).rearm i).Within m :=
  ⟨rfl, fun _ h => h.1, fun _ h => h.1, fun _ _ h => h⟩

theorem Mode.within_closed_fray (m : Mode) (i : SlotId) : (((m.fray i).mend i).rearm i).Within m :=
  ⟨rfl, fun _ h => h.1.resolve_right h.2, fun _ h => h.1, fun _ _ h => h⟩

theorem Mode.within_closed_unarm (m : Mode) (i : SlotId) : (((((m.fray i).unarm i)).mend i).rearm i).Within m :=
  ⟨rfl, fun _ h => h.1.resolve_right h.2, fun _ h => h.1.resolve_right h.2, fun _ _ h => h⟩

theorem Mode.within_without (m : Mode) (k : Agent) (i : SlotId) : (m.without k i).Within m :=
  ⟨rfl, fun _ h => h, fun _ h => h, fun _ _ h => h.1⟩

/-- A slot whose context, if any, has a cause is not frayed. -/
theorem Mode.relaxes_mended (m : Mode) {d : Directory} {i : SlotId} (h : ∀ w, d.window i = some w → CauseStands w) :
    (m.fray i).Relaxes d m :=
  ⟨rfl, fun _ x => x.imp_right fun e => by rw [e]; exact h, fun _ x => x, fun _ _ x => .inl x⟩

/-- An agent that the window of a slot can keep is no stray there. -/
theorem Mode.relaxes_without (m : Mode) {d : Directory} {k : Agent} {i : SlotId}
    (h : ∀ w, d.window i = some w → w.CanKeep d k) : m.Relaxes d (m.without k i) := by
  refine ⟨rfl, fun _ x => .inl x, fun _ x => x, fun a j x => ?_⟩
  by_cases e : a = k ∧ j = i
  · obtain ⟨rfl, rfl⟩ := e
    exact .inr h
  · exact .inl ⟨x, e⟩

section
variable {m₀ m : Mode} {d₀ d : Directory}

theorem Works.relax {n : Mode} (h : Works m₀ d₀ m d) (g : m.Relaxes d n) : Works m₀ d₀ n d := h.work (.relax g)

/-- Work that touches no slot's recall. -/
theorem Works.ease {e : Directory} (h : Works m₀ d₀ m d) (g : d.Eases none e) : Works m₀ d₀ m e :=
  h.work (.ease (o := none) nofun g)

/-- Work on the recall of a settled slot. -/
theorem Works.easeAt {e : Directory} {i : SlotId} (h : Works m₀ d₀ m d) (hs : m.Settled i) (g : d.Eases (some i) e) :
    Works m₀ d₀ m e := h.work (.ease (by rintro _ ⟨⟩; exact hs) g)

theorem Works.foldl {α : Type} (h : Works m₀ d₀ m d) (f : Directory → α → Directory)
    (g : ∀ (e : Directory) (x : α), Works m e m (f e x)) (l : List α) : Works m₀ d₀ m (l.foldl f d) := by
  induction l generalizing d with
  | nil => exact h
  | cons x l ih => exact ih (h.trans (g d x))

/-! ### Head service (R87) -/

theorem Works.startRecall {i : SlotId} {cause : Cause} (h : Works m₀ d₀ m d) (hs : m.Settled i) (now : Tick) (force : Bool)
    (ts : List (Agent × Level)) (free : cause.free) (opened : ∀ w, d.window i = some w → w.context = none) :
    Works m₀ d₀ m (d.startRecall now i cause force ts) :=
  (h.work (.create force free opened)).easeAt hs ((Directory.Eases.refl _ _).mergeTargets now ts)

theorem Works.headService {i : SlotId} (h : Works m₀ d₀ m d) (hs : m.Settled i) (now : Tick) :
    Works m₀ d₀ m (d.headService now i) := by
  cases hw : d.window i with
  | none => simpa [Directory.headService, hw] using h
  | some w =>
    by_cases hrun : w.context ≠ none ∨ w.reservation ≠ none
    · rw [headService_idle hw hrun]
      exact h
    · push Not at hrun
      obtain ⟨hc, hr⟩ := hrun
      have served : ∀ l r, (∀ x ∈ l, x ∈ w.waiters) →
          Works m₀ d₀ m (withWindow d i { w with waiters := l, reservation := r }) := fun l r hl => by
        rw [← modWindow_eq_withWindow (fun w => { w with waiters := l, reservation := r }) hw]
        refine h.ease ((Directory.Eases.refl _ d).modWindow i fun v hv => ⟨.of_outside rfl (fun x hx => ?_) id, rfl⟩)
        rw [hw] at hv
        cases hv
        exact hl x hx
      have kept : ∀ x ∈ w.servable, x ∈ w.waiters := fun x hx => List.Sublist.mem hx (List.dropWhile_sublist _)
      cases hsv : w.servable with
      | nil =>
        rw [headService_none hw hc hr hsv]
        exact served [] w.reservation (by simp)
      | cons x rest =>
        rw [headService_some hw hc hr hsv]
        split
        · exact served _ _ (hsv ▸ kept)
        · refine (served (x :: rest) w.reservation (hsv ▸ kept)).startRecall hs now false _ trivial fun v hv => ?_
          rw [window_withWindow, if_pos rfl] at hv
          cases hv
          exact hc

/-! ### The end of a recall (R116, R117, R118) -/

/-- Stages 3 to 5, from a mode in which the slot may be frayed and unarmed. -/
theorem Works.closeContext {n : Mode} {i : SlotId} (h : Works m₀ d₀ n d) (hn : ((n.mend i).rearm i).Within m) (hs : m.Settled i)
    (now : Tick)
    (ends : ∀ w c, d.window i = some w → w.context = some c → c.retire = false ∧ (c.revision = false ∨ w.revision = none)) :
    Works m₀ d₀ m (d.closeContext now i) :=
  ((((h.work (.drop i ends)).ease ((Directory.Eases.refl none _).withdrawAll i)).work (.rearm i now)).relax
    (hn.relaxes _)).headService hs now

theorem Works.complete {i : SlotId} {w : Window} {c : RecallContext} (h : Works m₀ d₀ m d) (hs : m.Settled i) (now : Tick)
    (hw : d.window i = some w) (hc : w.context = some c) (hwait : c.waits = false) : Works m₀ d₀ m (d.complete now i c) := by
  unfold Directory.complete
  split
  · next hret => exact h.work (.retire hw hc hret hwait)
  · next hret =>
    have hret : c.retire = false := by simpa using hret
    split
    · next hrev =>
      refine (h.work (.apply hw hc hrev hret hwait)).closeContext (m.within_closed_unarm i) hs now fun v x hv hx => ?_
      unfold Directory.applyRevision at hv
      rw [hw] at hv
      cases hp : w.revision with
      | none =>
        simp only [Option.bind_some, hp] at hv
        rw [hw] at hv
        cases hv
        rw [hc] at hx
        cases hx
        exact ⟨hret, .inr hp⟩
      | some p =>
        simp only [Option.bind_some, hp, window_finish, window_modWindow, if_true, hw, Option.map_some] at hv
        cases hv
        simp only [Window.modContext, hc, Option.map_some, Option.some.injEq] at hx
        subst hx
        exact ⟨hret, .inr rfl⟩
    · next hrev =>
      refine h.closeContext (m.within_closed i) hs now fun v x hv hx => ?_
      rw [hw] at hv
      cases hv
      rw [hc] at hx
      cases hx
      exact ⟨hret, .inl (by simpa using hrev)⟩

theorem Works.checkCompletion {i : SlotId} (h : Works m₀ d₀ m d) (hs : m.Settled i) (now : Tick) :
    Works m₀ d₀ m (d.checkCompletion now i) := by
  unfold Directory.checkCompletion
  split
  · exact h
  · next c hc =>
    obtain ⟨w, hw, hc⟩ := Option.bind_eq_some_iff.1 hc
    split
    · exact h
    · next hwait => exact h.complete hs now hw hc (by simpa using hwait)

/-- A context without causes has neither RETIRE nor REVISION. -/
theorem flags_of_causeless {c : RecallContext} (h : c.causeless = true) : c.retire = false ∧ c.revision = false := by
  simp only [RecallContext.causeless, Bool.not_eq_true', Bool.or_eq_false_iff] at h
  obtain ⟨⟨⟨_, revision⟩, retire⟩, _⟩ := h
  exact ⟨retire, revision⟩

/-- What follows when a cause has left mends the slot. -/
theorem Works.afterCauseLeft {i : SlotId} (h : Works m₀ d₀ (m.fray i) d) (hs : m.Settled i) (now : Tick) :
    Works m₀ d₀ m (d.afterCauseLeft now i) := by
  unfold Directory.afterCauseLeft
  split
  · next hc =>
    refine h.relax (m.relaxes_mended fun w hw c hx => ?_)
    simp [Directory.context, hw, Option.mem_def.1 hx] at hc
  · next c hc =>
    obtain ⟨w, hw, hc⟩ := Option.bind_eq_some_iff.1 hc
    split
    · next hcl =>
      refine h.closeContext (m.within_closed_fray i) hs now fun v x hv hx => ?_
      rw [hw] at hv
      cases hv
      rw [hc] at hx
      cases hx
      exact ⟨(flags_of_causeless hcl).1, .inl (flags_of_causeless hcl).2⟩
    · next hcl =>
      refine h.relax (m.relaxes_mended fun v hv x hx => ?_)
      rw [hw] at hv
      cases hv
      rw [hc] at hx
      cases hx
      simpa using hcl

/-! ### Agents that leave (R84, R115, R161, R162, R164) -/

theorem Works.leaveDetach {i : SlotId} {k : Agent} {b : Bool} (h : Works m₀ d₀ m d) (hs : m.Settled i) (now : Tick)
    (he : b = true → (d.agent k).holdingCount = 0) : Works m₀ d₀ m (d.leaveDetach now k b i) :=
  (h.work (.dismiss i he)).afterCauseLeft hs now

theorem Directory.eases_unlist (o : Option SlotId) (d : Directory) (i : SlotId) (k : Agent) : d.Eases o (d.unlist i k) :=
  (Directory.Eases.refl o d).modWindow i fun _ _ => ⟨.of_outside rfl (fun _ hx => List.mem_of_mem_filter hx) id, rfl⟩

/-- An agent off the list, with the window's reservation gone. -/
theorem Directory.eases_unserve (o : Option SlotId) (d : Directory) (i : SlotId) (k : Agent) :
    d.Eases o (d.modWindow i fun w => { w.unlist k with reservation := none }) :=
  (Directory.Eases.refl o d).modWindow i fun w _ =>
    ⟨.of_outside (w' := { w.unlist k with reservation := none }) rfl (fun _ hx => List.mem_of_mem_filter hx) id, rfl⟩

theorem listed_iff {w : Window} {k : Agent} : w.listed k = true ↔ ∃ x ∈ w.waiters, x.agent = k := by
  simp [Window.listed, List.any_eq_true]

theorem Works.leaveWaiters {i : SlotId} {k : Agent} (h : Works m₀ d₀ m d) (hs : (m.without k i).Settled i) (now : Tick)
    (hk : (d.agent k).Serves) : Works m₀ d₀ (m.without k i) (d.leaveWaiters now k i) := by
  unfold Directory.leaveWaiters
  split
  · next hw => exact h.relax (m.relaxes_without fun w hw' => by rw [hw] at hw'; cases hw')
  · next w hw =>
    split
    · have gone := (h.ease (d.eases_unlist none i k)).relax (n := m.without k i) (m.relaxes_without fun v hv => by
        simp only [Directory.unlist, window_modWindow, if_true, hw, Option.map_some] at hv
        cases hv
        exact ⟨.inr hk, fun x hx => by simpa using (List.mem_filter.1 hx).2⟩)
      dsimp only
      split
      · exact gone.headService hs now
      · exact gone
    · next hl =>
      refine h.relax (m.relaxes_without fun v hv => ?_)
      rw [hw] at hv
      cases hv
      exact ⟨.inr hk, fun x hx e => hl (listed_iff.2 ⟨x, hx, e⟩)⟩

theorem Works.loseWindow {i : SlotId} {k : Agent} (h : Works m₀ d₀ m d) (hs : (m.without k i).Settled i) (now : Tick) :
    Works m₀ d₀ (m.without k i) (d.loseWindow now k i) := by
  unfold Directory.loseWindow
  split
  · next hw => exact h.relax (m.relaxes_without fun w hw' => by rw [hw] at hw'; cases hw')
  · next w hw =>
    have same : (((d.setHolding i k .none).setPins i k 0).unlist i k).context i = d.context i := by
      simp [context_eq, Directory.unlist, hw]
    have gone : Works m₀ d₀ (m.without k i) ((((d.setHolding i k .none).setPins i k 0).unlist i k).removeFromContext now k i) := by
      unfold Directory.removeFromContext
      rw [same]
      cases hc : d.context i with
      | none =>
        have e : d.strike k i = ((d.setHolding i k .none).setPins i k 0).unlist i k := by
          refine modWindow_eq_self ?_
          rw [context_eq, hc] at same
          cases hv : (((d.setHolding i k .none).setPins i k 0).unlist i k).window i with
          | none => rfl
          | some v =>
            rw [hv] at same
            exact congrArg some (Window.modContext_eq_self same)
        rw [← e]
        exact h.work (.strike k i false fun _ c hc' => by rw [hc] at hc'; cases hc')
      | some c =>
        dsimp only
        cases hdet : look c.detachAgents k with
        | false =>
          have g : Works m₀ d₀ (m.without k i) (d.strike k i) :=
            h.work (.strike k i false fun _ x hx => by rw [hc] at hx; cases hx; exact hdet)
          simp only [Bool.false_eq_true, if_false]
          split
          · exact g.checkCompletion hs now
          · exact g
        | true =>
          have g : Works m₀ d₀ ((m.without k i).fray i) (d.strike k i) := h.work (.strike k i true nofun)
          simp only [if_true]
          refine Works.afterCauseLeft ?_ hs now
          split
          · exact g.checkCompletion hs now
          · exact g
    dsimp only
    split
    · exact gone.headService hs now
    · exact gone

theorem Works.handOverDetach {i : SlotId} (h : Works m₀ d₀ m d) (hs : m.Settled i) (now : Tick) (k : Agent) (force : Bool) :
    Works m₀ d₀ m (d.handOverDetach now k force i) := by
  unfold Directory.handOverDetach
  split
  · exact h
  · next w hw =>
    split
    · dsimp only
      refine Works.checkCompletion (Works.easeAt ?_ hs ((Directory.Eases.refl _ _).mergeTarget now force k .none)) hs now
      split
      · exact h.ease ((Directory.Eases.refl none d).addDetach i k)
      · next hc =>
        refine h.work (.create false trivial fun v hv => ?_)
        rw [hw] at hv
        cases hv
        simpa using hc
    · exact h

end

end Sys2Proof.Machine
end

section
/-! SUPPORT. The phases of an event: the Recall Controller's work, and what commands, requests and departures do beside it. -/

namespace Sys2Proof.Machine

open Sys2Proof.Safety

/-! ### Modes of an event -/

/-- A command has been taken, and its place is free (R177). -/
def Mode.command : Mode := { Mode.whole with places := 1 }

/-- The command taken has its record, and is not parked. -/
def Mode.airborne (p : Parked) : Mode := { Mode.whole with flight := fun q => q = p }

/-- A parked command's record is gone, while an ABORT runs (R130). -/
def Mode.aborting (t : Tag) : Mode := { Mode.whole with places := 2, ending := fun u => u = t }

/-- Agent `k`'s detach in progress, if any, is about to end. -/
def Mode.depart (m : Mode) (k : Agent) : Mode := { m with departing := fun a => m.departing a ∨ a = k }

/-- Agent `k` may be left in these slots. -/
def Mode.straying (m : Mode) (k : Agent) (p : SlotId → Prop) : Mode := { m with strays := fun a i => a = k ∧ p i }

/-- The window table with REVISION handed over in slot `i`, before any target (R124, R125). -/
def Directory.reviseStarted (d : Directory) (i : SlotId) (p : PendingRevision) : Directory :=
  if (d.context i).isSome then (d.stage i p).addCause i .revision else (d.stage i p).createContext i .revision p.force

/-- The window table with RETIRE handed over in slot `i`, before any target (R133, R134, R135). -/
def Directory.retireStarted (d : Directory) (i : SlotId) (t : Tag) (force : Bool) : Directory :=
  if (d.context i).isSome then ((d.supersede i force).emptyForRetire i t).addCause i .retire
  else ((d.supersede i force).emptyForRetire i t).createContext i .retire force

/-- Every agent that the targets name is asked to come down, in the window of slot `i`. -/
def Directory.Asked (d : Directory) (i : SlotId) (ts : List (Agent × Level)) : Prop :=
  ∀ v, d.window i = some v → ∀ k l, (k, l) ∈ ts → v.Asks k l

/-- One phase of an event, from one mode to the next. -/
inductive Phase : Mode → Directory → Mode → Directory → Prop
  /-- The Recall Controller works. -/
  | work {m n : Mode} {d e : Directory} (h : Work m d n e) : Phase m d n e
  /-- An ONLINE agent joins a waiter list (R81). -/
  | enlist {m : Mode} {d : Directory} {i : SlotId} {k : Agent} (kind : AccessKind) (online : (d.agent k).state = .online)
      (stays : ∀ w, d.window i = some w → w.context.any (·.retire) = false) : Phase m d m (d.modWindow i (·.enlist k kind))
  /-- A grant raises a holding in an OPEN window (R63, R64). -/
  | raise {m : Mode} {d : Directory} {i : SlotId} {w : Window} {k : Agent} {h : Holding} (window : d.window i = some w)
      (opened : w.context = none) (serves : (d.agent k).Serves) (cacheable : w.fields.cacheable = true)
      (allowed : w.right k ≠ .none ∧ (h = .owner → w.right k = .write)) : Phase m d m (d.setHolding i k h)
  /-- A watch ends, with the record of its WATCH (R152, R153). -/
  | endWatch {m : Mode} {d : Directory} {i : SlotId} {r : Record}
      (watched : (∃ w x, d.window i = some w ∧ w.watch = some x ∧ x.tag = r.tag) ∨
        ({ tag := r.tag, work := .watch i } ∈ d.parked ∧ ¬ m.ending r.tag)) :
      Phase m d m ((d.modWindow i fun w => { w with watch := none }).finish r)
  /-- A command is taken, with a place free for its record (R177). -/
  | take {d : Directory} (free : d.placeFree = true) : Phase .whole d .command d
  /-- The command taken writes its record. -/
  | record {d : Directory} (r : Record) : Phase .command d .whole (d.record r)
  /-- A watch begins, and its WATCH is parked (R150). -/
  | watch {d : Directory} {i : SlotId} {w : Window} (x : Watch) (window : d.window i = some w) (unwatched : w.watch = none)
      (fresh : d.tagInUse x.tag = false) :
      Phase .command d .whole ((d.modWindow i fun w => { w with watch := some x }).park { tag := x.tag, work := .watch i })
  /-- A window opens in a FREE slot (R17). -/
  | openWindow {m : Mode} {d : Directory} {i : SlotId} (f : FieldSet) (now : Tick) (vacant : d.window i = none)
      (apart : d.overlapFound none f = false) : Phase m d m (d.fillSlot i (f.opened now))
  /-- A REVISE that affects no holding is applied at once (R123). -/
  | reviseNow {m : Mode} {d : Directory} {i : SlotId} {w : Window} (f : FieldSet) (window : d.window i = some w)
      (opened : w.context = none) (affects : w.affected f = []) (apart : d.overlapFound (some i) f = false) :
      Phase m d m (d.modWindow i fun w => { w with reservation := none, fields := f }.armIdle w.lastGrant)
  /-- A pending revision is stored and REVISION handed over (R124, R125). -/
  | revise {d e : Directory} {i : SlotId} {w : Window} {p : PendingRevision} (window : d.window i = some w)
      (calm : w.context.any (·.retire) = false ∧ w.context.any (·.revision) = false)
      (apart : d.overlapFound (some i) p.fields = false) (fresh : d.tagInUse p.tag = false)
      (eased : (d.reviseStarted i p).Eases (some i) e) (asked : e.Asked i (w.affected p.fields)) :
      Phase .command d (.airborne { tag := p.tag, work := .revise i }) e
  /-- The Retire Tag is set and RETIRE handed over (R133, R134, R135). -/
  | retire {d e : Directory} {i : SlotId} {w : Window} {t : Tag} {force : Bool} (window : d.window i = some w)
      (calm : w.context.any (·.retire) = false) (fresh : d.tagInUse t = false)
      (eased : (d.retireStarted i t force).Eases (some i) e) (asked : e.Asked i w.allHolders) :
      Phase .command d (.airborne { tag := t, work := .retire i }) e
  /-- The command taken parks, its record still there (R180). -/
  | park {d : Directory} {p : Parked} (kept : keptTag d p.work ≠ none) : Phase (.airborne p) d .whole (d.park p)
  /-- The command taken has completed in its own event. -/
  | land {d : Directory} {p : Parked} (gone : keptTag d p.work = none) : Phase (.airborne p) d .whole d
  /-- A pending revision is given up; its context may fray (R130). -/
  | abortRevision {d : Directory} {i : SlotId} {t : Tag} (parked : { tag := t, work := .revise i } ∈ d.parked) :
      Phase .command d ((Mode.aborting t).fray i)
        (d.modWindow i fun w =>
          { w with revision := none }.modContext fun c => { c with revision := false, force := false })
  /-- The record of the REVISE given up is written. -/
  | endAbort {d : Directory} (r : Record) : Phase (.aborting r.tag) d .command (d.finish r)
  /-- An agent is admitted (R27). -/
  | admission {d : Directory} {k : Agent} (x : Settings) (out : (d.agent k).state.inService = false) :
      Phase .command d .command (d.modAgent k (·.admitted x))
  /-- A detach begins (R157, step 1). -/
  | detach {d : Directory} {k : Agent} {t : Tag} (online : (d.agent k).state = .online) (fresh : d.tagInUse t = false) :
      Phase .command d ((Mode.airborne { tag := t, work := .detach k }).straying k fun _ => True)
        (d.modAgent k fun a => { a with state := .detaching, detach := some { tag := t, forced := 0 } })
  /-- An agent goes out of service, its notices gone (R164, step 1). -/
  | depart {m : Mode} {d : Directory} {k : Agent} {f : AgentRecord → AgentRecord} (settled : ∀ i, m.Settled i)
      (out : (f (d.agent k)).state = .offline ∨ (f (d.agent k)).state = .fenced) (silent : (f (d.agent k)).Silent)
      (detach : (f (d.agent k)).detach = (d.agent k).detach) (count : (f (d.agent k)).holdingCount = (d.agent k).holdingCount) :
      Phase m d ((m.depart k).straying k fun _ => True) (d.modAgent k f)
  /-- A detach completes: the agent, which holds nothing, is OFFLINE (R161, step 2). -/
  | vacate {m : Mode} {d : Directory} {k : Agent} (empty : (d.agent k).holdingCount = 0) (offline : (d.agent k).state ≠ .online) :
      Phase m d (m.depart k) (d.modAgent k fun a => { a.emptyNotices with state := .offline })
  /-- A detach is aborted: the agent is ONLINE again (R162, step 1). -/
  | rejoin {m : Mode} {d : Directory} (k : Agent) : Phase m d (m.depart k) (d.modAgent k fun a => { a with state := .online })
  /-- The detach in progress, if any, ends with its record (R155). -/
  | endDetach {m : Mode} {d : Directory} (k : Agent) (x : Status) : Phase (m.depart k) d m (d.endDetach k x)

/-- A chain of phases. -/
def Phases (m : Mode) (d : Directory) (n : Mode) (e : Directory) : Prop :=
  Relation.ReflTransGen (fun x y : Mode × Directory => Phase x.1 x.2 y.1 y.2) (m, d) (n, e)

theorem Phases.refl (m : Mode) (d : Directory) : Phases m d m d := Relation.ReflTransGen.refl

theorem Phases.phase {m n p : Mode} {d e f : Directory} (h : Phases m d n e) (g : Phase n e p f) : Phases m d p f :=
  Relation.ReflTransGen.tail h g

/-- Work is a chain of phases. -/
theorem Phases.works {m n p : Mode} {d e f : Directory} (h : Phases m d n e) (g : Works n e p f) : Phases m d p f :=
  g.keeps (I := fun x y => Phases m d x y) (fun w h => h.phase (.work w)) h

/-- A law that every phase keeps is kept by an event. -/
theorem Phases.keeps {I : Mode → Directory → Prop} (keep : ∀ {m d n e}, Phase m d n e → I m d → I n e) {m n : Mode}
    {d e : Directory} (h : Phases m d n e) (g : I m d) : I n e := by
  suffices ∀ x y : Mode × Directory, Relation.ReflTransGen (fun x y : Mode × Directory => Phase x.1 x.2 y.1 y.2) x y →
      I x.1 x.2 → I y.1 y.2 from this _ _ h g
  intro x y hxy hx
  induction hxy with
  | refl => exact hx
  | tail _ step ih => exact keep step ih

theorem Mode.settled_whole (i : SlotId) : Mode.whole.Settled i := fun _ h => h

theorem Mode.settled_command (i : SlotId) : Mode.command.Settled i := fun _ h => h

theorem Mode.settled_airborne (p : Parked) (i : SlotId) : (Mode.airborne p).Settled i := fun _ h => h

theorem Mode.settled_aborting (t : Tag) (i : SlotId) : (Mode.aborting t).Settled i := fun _ h => h

section
variable {m₀ m : Mode} {d₀ d : Directory}

theorem Phases.ease {e : Directory} (h : Phases m₀ d₀ m d) (g : d.Eases none e) : Phases m₀ d₀ m e :=
  h.works ((Works.refl m d).ease g)

/-! ### Agent loss (R164, R167, R169) -/

theorem Mode.within_straying_nil (m : Mode) (k : Agent) : (m.straying k (· ∈ ([] : List SlotId))).Within m :=
  ⟨rfl, fun _ x => x, fun _ x => x, fun _ _ x => absurd x.2 List.not_mem_nil⟩

theorem Mode.within_straying_cons (m : Mode) (k : Agent) (i : SlotId) (l : List SlotId) :
    ((m.straying k (· ∈ i :: l)).without k i).Within (m.straying k (· ∈ l)) :=
  ⟨rfl, fun _ x => x, fun _ x => x, fun _ _ x =>
    ⟨x.1.1, (List.mem_cons.1 x.1.2).resolve_left fun e => x.2 ⟨x.1.1, e⟩⟩⟩

/-- The slots emptied of an agent one after the other. -/
theorem Works.straying_foldl {f : Directory → SlotId → Directory} {k : Agent} (P : Directory → Prop)
    (step : ∀ (n : Mode) (e : Directory) (i : SlotId), (n.without k i).Settled i → P e →
      Works n e (n.without k i) (f e i) ∧ P (f e i)) (l : List SlotId)
    (h : Works m₀ d₀ (m.straying k (· ∈ l)) d) (hP : P d) : Works m₀ d₀ m (l.foldl f d) ∧ P (l.foldl f d) := by
  induction l generalizing d with
  | nil => exact ⟨h.relax ((m.within_straying_nil k).relaxes d), hP⟩
  | cons i l ih =>
    obtain ⟨g, hP⟩ := step (m.straying k (· ∈ i :: l)) d i (fun a ha => ha.2 ⟨ha.1.1, rfl⟩) hP
    exact ih ((h.trans g).relax ((m.within_straying_cons k i l).relaxes _)) hP

theorem mem_liveSlots {i : SlotId} : i ∈ d.liveSlots ↔ d.window i ≠ none := by
  simp [Directory.liveSlots, Option.isSome_iff_ne_none]

/-- An agent that may be anywhere is, at most, in the windows there are. -/
theorem Works.straying_live {k : Agent} (h : Works m₀ d₀ (m.straying k fun _ => True) d) :
    Works m₀ d₀ (m.straying k (· ∈ d.liveSlots)) d := by
  refine h.relax ⟨rfl, fun _ x => .inl x, fun _ x => x, fun a i x => ?_⟩
  by_cases hw : d.window i = none
  · exact .inr fun w hw' => by rw [hw] at hw'; cases hw'
  · exact .inl ⟨x.1, mem_liveSlots.2 hw⟩

theorem modAgent_modAgent (d : Directory) (k : Agent) (f g : AgentRecord → AgentRecord) :
    (d.modAgent k f).modAgent k g = d.modAgent k (g ∘ f) := by
  simp [Directory.modAgent, put_put]

/-- Agent loss, after the event has set the agent's state. -/
theorem Phases.agentLoss {k : Agent} {f : AgentRecord → AgentRecord} (h : Phases m₀ d₀ m d) (hs : ∀ i, m.Settled i) (now : Tick)
    (out : (f (d.agent k)).state = .offline ∨ (f (d.agent k)).state = .fenced)
    (detach : (f (d.agent k)).detach = (d.agent k).detach) (count : (f (d.agent k)).holdingCount = (d.agent k).holdingCount) :
    Phases m₀ d₀ m ((d.modAgent k f).agentLoss now k) := by
  unfold Directory.agentLoss
  rw [modAgent_modAgent]
  have gone := h.phase (.depart (f := AgentRecord.emptyNotices ∘ f) hs out ⟨rfl, rfl⟩ detach count)
  have lost := Works.straying_foldl (m := m.depart k) (f := fun d i => d.loseWindow now k i) (fun _ => True)
    (fun n e i hn _ => ⟨(Works.refl n e).loseWindow hn now, trivial⟩) _
    (Works.refl _ (d.modAgent k (AgentRecord.emptyNotices ∘ f))).straying_live trivial
  exact (gone.works lost.1).phase (.endDetach k .agentLost)

theorem Phases.fence (h : Phases m₀ d₀ m d) (hs : ∀ i, m.Settled i) (now : Tick) (k : Agent) :
    Phases m₀ d₀ m (d.fence now k) := h.agentLoss hs now (.inr rfl) rfl rfl

theorem Phases.modAlerts (h : Phases m₀ d₀ m d) (f : Alerts → Alerts) : Phases m₀ d₀ m (d.modAlerts f) :=
  h.ease ((Directory.Eases.refl none d).modAlerts f)

theorem Phases.fenceCheck (h : Phases m₀ d₀ m d) (hs : ∀ i, m.Settled i) (now : Tick) (k : Agent) :
    Phases m₀ d₀ m (d.fenceCheck now k) := by
  unfold Directory.fenceCheck
  split
  · exact (h.fence hs now k).modAlerts _
  · exact h

theorem Phases.resetAgent (h : Phases m₀ d₀ m d) (hs : ∀ i, m.Settled i) (now : Tick) (k : Agent) :
    Phases m₀ d₀ m (d.resetAgent now k) :=
  (h.agentLoss (k := k) (f := fun a => { a with state := .offline, faultScore := 0 }) hs now (.inl rfl) rfl rfl).modAlerts
    (·.setAgentReset k)

/-! ### Detaches that complete (R161) -/

/-- DETACH leaves several windows. -/
theorem Works.leaveDetaches {k : Agent} {b : Bool} (hs : ∀ i, m.Settled i) (now : Tick) (l : List SlotId)
    (h : Works m₀ d₀ m d) (he : b = true → (d.agent k).holdingCount = 0) :
    Works m₀ d₀ m (l.foldl (fun d i => d.leaveDetach now k b i) d) := by
  induction l generalizing d with
  | nil => exact h
  | cons i l ih =>
    have g := (Works.refl m d).leaveDetach (hs i) now he
    exact ih (h.trans g) fun hb => Nat.le_zero.1 ((g.calm.falls k).trans (he hb).le)

/-- An agent whose detach may complete: it is not ONLINE, and holds nothing. -/
def AgentRecord.Vacant (a : AgentRecord) : Prop := a.state ≠ .online ∧ a.holdingCount = 0

theorem Directory.Calm.vacant {d e : Directory} (h : d.Calm e) {k : Agent} (g : (d.agent k).Vacant) : (e.agent k).Vacant :=
  ⟨by rw [h.states]; exact g.1, Nat.le_zero.1 ((h.falls k).trans g.2.le)⟩

theorem agent_endDetach (d : Directory) (k j : Agent) (x : Status) :
    (d.endDetach k x).agent j = if j = k then { d.agent j with detach := none } else d.agent j := by
  unfold Directory.endDetach
  split
  · next h =>
    split
    · next e =>
      subst e
      cases hr : d.agent j
      simp_all
    · rfl
  · simp

/-- The windows that a detach leaves, in the order that the free choice gives. -/
def Directory.dismissed (d : Directory) (now : Tick) (k : Agent) : Directory :=
  (freeOrder d.choices (d.detachSlots k)).2.foldl (fun d i => d.leaveDetach now k true i)
    { d with choices := (freeOrder d.choices (d.detachSlots k)).1 }

theorem completeDetach_eq (d : Directory) (now : Tick) (k : Agent) :
    d.completeDetach now k =
      ((d.dismissed now k).modAgent k fun a => { a.emptyNotices with state := .offline }).endDetach k .done := rfl

theorem Works.dismissed {k : Agent} (h : Works m₀ d₀ m d) (hs : ∀ i, m.Settled i) (now : Tick)
    (he : (d.agent k).holdingCount = 0) : Works m₀ d₀ m (d.dismissed now k) :=
  Works.leaveDetaches hs now _ (h.ease ((Directory.Eases.refl none d).of_same rfl rfl rfl le_rfl)) fun _ => he

theorem Phases.completeDetach {k : Agent} (h : Phases m₀ d₀ m d) (hs : ∀ i, m.Settled i) (now : Tick)
    (hk : (d.agent k).Vacant) : Phases m₀ d₀ m (d.completeDetach now k) := by
  have g := (Works.refl m d).dismissed hs now hk.2
  have vacant := g.calm.vacant hk
  exact ((h.works g).phase (.vacate vacant.2 vacant.1)).phase (.endDetach k .done)

/-- The end of one detach leaves vacant agents vacant. -/
theorem vacant_completeDetach {k j : Agent} (now : Tick) (hj : (d.agent j).Vacant) (hk : (d.agent k).Vacant) :
    ((d.completeDetach now k).agent j).Vacant := by
  have g := ((Works.refl .whole d).dismissed Mode.settled_whole now hk.2).calm.vacant hj
  rw [completeDetach_eq, agent_endDetach, agent_modAgent]
  split
  · next e => exact ⟨nofun, g.2⟩
  · exact g

theorem mem_insertAt {α : Type} {x y : α} {n : Nat} {l : List α} (h : y ∈ insertAt x n l) : y = x ∨ y ∈ l := by
  induction n generalizing l with
  | zero => exact List.mem_cons.1 h
  | succ n ih =>
    cases l with
    | nil => exact .inl (List.mem_singleton.1 h)
    | cons z l =>
      rcases List.mem_cons.1 h with rfl | h
      · exact .inr List.mem_cons_self
      · exact (ih h).imp_right (List.mem_cons_of_mem _)

/-- A free order holds no entry that the list does not hold. -/
theorem mem_freeOrder {α : Type} {x : α} (n : Nat) (l : List α) (h : x ∈ (freeOrder n l).2) : x ∈ l := by
  induction l generalizing n with
  | nil => exact h
  | cons y l ih =>
    cases l with
    | nil => exact h
    | cons z l => exact List.mem_cons.2 ((mem_insertAt h).imp_right (ih n))

theorem Phases.completeDetaches {ks : List Agent} (h : Phases m₀ d₀ m d) (hs : ∀ i, m.Settled i) (now : Tick)
    (hk : ∀ k ∈ ks, (d.agent k).Vacant) : Phases m₀ d₀ m (d.completeDetaches now ks) := by
  have run : ∀ (l : List Agent) (e : Directory), Phases m₀ d₀ m e → (∀ k ∈ l, (e.agent k).Vacant) →
      Phases m₀ d₀ m (l.foldl (fun d k => d.completeDetach now k) e) := by
    intro l
    induction l with
    | nil => exact fun e he _ => he
    | cons k l ih =>
      intro e he hl
      have hv := hl k List.mem_cons_self
      exact ih _ (he.completeDetach hs now hv) fun j hj => vacant_completeDetach now (hl j (List.mem_cons_of_mem _ hj)) hv
  exact run _ _ (h.ease ((Directory.Eases.refl none d).of_same rfl rfl rfl le_rfl))
    fun k hx => hk k (mem_freeOrder _ _ hx)

/-- The detaches that an event completes are of DETACHING agents that hold nothing any more. -/
theorem Phases.settle (h : Phases m₀ d₀ m d) (hs : ∀ i, m.Settled i) (now : Tick) (before : Directory) :
    Phases m₀ d₀ m (d.settle now before) := by
  refine h.completeDetaches hs now fun k hk => ?_
  simp only [Directory.emptied, List.mem_filter, Bool.and_eq_true, beq_iff_eq] at hk
  obtain ⟨_, ⟨hd, hc⟩, _⟩ := hk
  exact ⟨by rw [hd]; nofun, hc⟩

end

end Sys2Proof.Machine
end

section
/-! SUPPORT. The phases of the events of time and of the links: deadlines that pass, notices taken, requests decided. -/

namespace Sys2Proof.Machine

open Sys2Proof.Safety

/-! ### Places in a recall -/

theorem member_eq_some {d : Directory} {i : SlotId} {k : Agent} (h : d.member i k ≠ .neither) :
    ∃ w c, d.window i = some w ∧ w.context = some c ∧ d.member i k = look c.members k := by
  cases hw : d.window i with
  | none => exact absurd (by simp [Directory.member, Directory.context, hw]) h
  | some w =>
    cases hc : w.context with
    | none => exact absurd (by simp [Directory.member, Directory.context, hw, hc]) h
    | some c => exact ⟨w, c, rfl, hc, member_of_context hw hc⟩

theorem member_setMember {d : Directory} {i : SlotId} {k : Agent} (m : Membership) (h : d.member i k ≠ .neither) :
    (d.modContext i (·.setMember k m)).member i k = m := by
  obtain ⟨w, c, hw, hc, _⟩ := member_eq_some h
  simp [Directory.member, Directory.context, hw, hc, Window.modContext]

/-- An agent in a set holds in the window, where the sets are sound (R96). -/
theorem holds_of_memberAt {d : Directory} {i : SlotId} {k : Agent} (h : (d.member i k).isMember = true) (w : Window)
    (hw : d.window i = some w) (hs : SetsSound w) : w.holding k ≠ .none := by
  obtain ⟨w', c, hw', hc, hm⟩ := member_eq_some (d := d) (i := i) (k := k) (by intro e; rw [e] at h; cases h)
  rw [hw] at hw'
  cases hw'
  rw [hm] at h
  obtain ⟨_, _, ha⟩ := holds_of_member (hs c hc k) h
  exact ne_none_of_above ha

theorem mayNotify_of_member {d : Directory} {i : SlotId} {k : Agent} (h : (d.member i k).isMember = true) :
    d.MayNotify (some i) k := by
  obtain ⟨w, c, hw, _⟩ := member_eq_some (d := d) (i := i) (k := k) (by intro e; rw [e] at h; cases h)
  exact .inr ⟨i, rfl, w, hw, holds_of_memberAt h w hw⟩

section
variable {m₀ m : Mode} {d₀ d : Directory}

theorem Phases.easeAt {e : Directory} {i : SlotId} (h : Phases m₀ d₀ m d) (hs : m.Settled i) (g : d.Eases (some i) e) :
    Phases m₀ d₀ m e := h.works ((Works.refl m d).easeAt hs g)

theorem Phases.headService {i : SlotId} (h : Phases m₀ d₀ m d) (hs : m.Settled i) (now : Tick) :
    Phases m₀ d₀ m (d.headService now i) := h.works ((Works.refl m d).headService hs now)

theorem Phases.checkCompletion {i : SlotId} (h : Phases m₀ d₀ m d) (hs : m.Settled i) (now : Tick) :
    Phases m₀ d₀ m (d.checkCompletion now i) := h.works ((Works.refl m d).checkCompletion hs now)

/-! ### Deadlines (R91, R105, R106, R107, R146) -/

theorem Phases.retry {i : SlotId} {k : Agent} {x : Wait} (h : Phases m₀ d₀ m d) (hs : ∀ i, m.Settled i) (now : Tick)
    (hm : d.member i k = .outstanding x) : Phases m₀ d₀ m (d.retry now i k x) := by
  have member : ∀ y : Wait, ((d.modContext i (·.setMember k (.outstanding y))).addScore k 1).member i k = .outstanding y :=
    fun y => member_setMember _ (by rw [hm]; nofun)
  have counted : ∀ y : Wait, Phases m₀ d₀ m ((d.modContext i (·.setMember k (.outstanding y))).addScore k 1) := fun y =>
    h.ease (((Directory.Eases.refl none d).setWait y hm).addScore k 1)
  have armed : ∀ y z : Wait, Phases m₀ d₀ m
      (((d.modContext i (·.setMember k (.outstanding y))).addScore k 1).modContext i (·.setMember k (.outstanding z))) :=
    fun y z => (counted y).ease ((Directory.Eases.refl none _).setWait z (member y))
  have waiting : ∀ y z : Wait, ((((d.modContext i (·.setMember k (.outstanding y))).addScore k 1).modContext i
      (·.setMember k (.outstanding z))).member i k).isMember = true := fun y z => by
    rw [member_setMember _ (by rw [member y]; nofun)]
    rfl
  unfold Directory.retry
  dsimp only
  split
  · exact (counted _).fenceCheck hs now k
  · split
    · exact (armed _ _).easeAt (hs i)
        ((Directory.Eases.refl (some i) _).placeRecallAgain i (mayNotify_of_member (waiting _ _)))
    · exact armed _ _

theorem Phases.revokeOnTimeout {i : SlotId} {k : Agent} {x : Wait} (h : Phases m₀ d₀ m d) (hs : ∀ i, m.Settled i) (now : Tick)
    (hm : d.member i k = .outstanding x) : Phases m₀ d₀ m (d.revokeOnTimeout now i k) := by
  have revoked := h.easeAt (hs i) (((Directory.Eases.refl (some i) d).revoke rfl k false fun w hw =>
    holds_of_memberAt (by rw [hm]; rfl) w hw).addScore k 4)
  exact ((revoked.modAlerts (·.setForcedRevoke k)).fenceCheck hs now k).checkCompletion (hs i) now

theorem Phases.passDeadline {i : SlotId} {k : Agent} {x : Wait} (h : Phases m₀ d₀ m d) (hs : ∀ i, m.Settled i) (now : Tick)
    (hm : d.member i k = .outstanding x) : Phases m₀ d₀ m (d.passDeadline now i k x) := by
  refine Phases.settle ?_ hs now d
  split
  · exact h.retry hs now hm
  · exact h.revokeOnTimeout hs now hm

theorem Phases.lapse {i : SlotId} (h : Phases m₀ d₀ m d) (hs : m.Settled i) (now : Tick) (r : Reservation) :
    Phases m₀ d₀ m (d.lapse now i r) :=
  (h.ease (d.eases_unserve none i r.agent)).headService hs now

theorem Phases.passIdle {i : SlotId} {w : Window} (h : Phases m₀ d₀ m d) (hs : m.Settled i) (now : Tick)
    (hw : d.window i = some w) : Phases m₀ d₀ m (d.passIdle now i w) := by
  unfold Directory.passIdle
  split
  · next hq =>
    have hc : w.context = none := by
      simp only [Window.quiet, Bool.and_eq_true] at hq
      obtain ⟨⟨⟨closed, _⟩, _⟩, _⟩ := hq
      simpa using closed
    have disarmed := h.ease ((Directory.Eases.refl none d).modWindow i (f := fun w => { w with idle := none }) fun v _ =>
      ⟨.of_outside rfl (fun _ hx => hx) fun _ _ => rfl, rfl⟩)
    refine Phases.checkCompletion (disarmed.works ?_) hs now
    refine (Works.refl m _).startRecall (cause := .idle) hs now false _ trivial fun v hv => ?_
    simp only [window_modWindow, if_true, hw, Option.map_some] at hv
    cases hv
    exact hc
  · exact h.ease ((Directory.Eases.refl none d).modWindow i fun v _ => ⟨v.eases_armIdle now, rfl⟩)

/-! ### Grants and waiting (R57 to R67, R81, R151) -/

theorem Phases.reportGrant (h : Phases m₀ d₀ m d) (i : SlotId) (k : Agent) (kind : AccessKind) (a : Addr) :
    Phases m₀ d₀ m (d.reportGrant i k kind a) := by
  unfold Directory.reportGrant
  split
  · exact h
  · next w hw =>
    split
    · exact h
    · next x hx =>
      split
      · exact h.phase (.endWatch (.inl ⟨w, x, hw, hx, rfl⟩))
      · exact h

/-- What a decision at the Window stage knows of the requester: it is in service, and its right covers the kind as decided. -/
structure Decides (d : Directory) (i : SlotId) (w : Window) (k : Agent) (kind : AccessKind) : Prop where
  window : d.window i = some w
  serves : (d.agent k).Serves
  allowed : (w.right k).allows kind = true
  decided : w.fields.cacheable = false → kind = .fetch ∨ kind = .store

/-- A right that covers an access allows the holding to which it raises: a right to read covers no rise to OWNER (R53, R71). -/
theorem right_of_raised {r : Right} {kind : AccessKind} {h : Holding} (covers : RightCovers r kind)
    (raised : kind.holdingAfter h ≠ h) : r ≠ .none ∧ (kind.holdingAfter h = .owner → r = .write) := by
  cases r with
  | none => exact covers.elim
  | write => exact ⟨nofun, fun _ => rfl⟩
  | read =>
    refine ⟨nofun, fun owner => absurd ?_ raised⟩
    rcases covers with rfl | rfl
    · rfl
    · cases h with
      | owner => rfl
      | none | shared => cases owner

/-- A grant changes the holding only where the window is OPEN, and to one that the right and CACHEABLE allow. -/
theorem Phases.raiseHolding {i : SlotId} {w : Window} {k : Agent} {kind : AccessKind} (h : Phases m₀ d₀ m d)
    (g : Decides d i w k kind) (opened : w.context = none ∨ kind.holdingAfter (w.holding k) = w.holding k) :
    Phases m₀ d₀ m (d.setHolding i k (kind.holdingAfter (w.holding k))) := by
  by_cases same : kind.holdingAfter (w.holding k) = w.holding k
  · rw [same, setHolding_same g.window]
    exact h
  · have allowed := allows_iff.1 g.allowed
    refine h.phase (.raise g.window (opened.resolve_right same) g.serves ?_ ?_)
    · by_contra hcache
      rcases g.decided (by simpa using hcache) with rfl | rfl <;> exact same rfl
    · exact right_of_raised allowed same

theorem Phases.grantAccess {i : SlotId} {w : Window} {k : Agent} {kind : AccessKind} (h : Phases m₀ d₀ m d) (hs : m.Settled i)
    (now : Tick) (a : Addr) (served : Bool) (g : Decides d i w k kind)
    (opened : w.context = none ∨ kind.holdingAfter (w.holding k) = w.holding k) :
    Phases m₀ d₀ m (d.grantAccess now i w k a kind served).1 := by
  have touched := (h.raiseHolding g opened).ease ((Directory.Eases.refl none _).modWindow i (f := fun w => w.granted now)
    fun v _ => ⟨v.eases_granted now, rfl⟩)
  unfold Directory.grantAccess
  dsimp only
  refine Phases.reportGrant ?_ i k kind a
  split
  · exact (touched.ease (Directory.eases_unserve none _ i k)).headService hs now
  · exact touched

theorem online_of_serves {k : Agent} (h : (d.agent k).Serves) (hd : d.detaching k = false) : (d.agent k).state = .online := by
  refine h.resolve_right fun e => ?_
  simp [Directory.detaching, e] at hd

theorem retire_of_state {w : Window} (h : w.state ≠ .retiring) : w.context.any (·.retire) = false := by
  unfold Window.state at h
  cases hc : w.context with
  | none => rfl
  | some c =>
    rw [hc] at h
    by_contra hr
    exact h (by simp_all)

theorem revision_of_state {w : Window} (h : w.state ≠ .retiring) (g : w.state ≠ .revising) :
    w.context.any (·.revision) = false := by
  unfold Window.state at h g
  cases hc : w.context with
  | none => rfl
  | some c =>
    rw [hc] at h g
    by_contra hr
    have hr : c.revision = true := by simpa using hr
    cases hret : c.retire <;> simp_all

theorem context_of_state {w : Window} (h : w.state = .opened ∨ w.state = .free) : w.context = none := by
  unfold Window.state at h
  cases hc : w.context with
  | none => rfl
  | some c =>
    rw [hc] at h
    simp only at h
    split at h
    · simp at h
    · split at h <;> simp at h

theorem Phases.waitAccess {i : SlotId} {w : Window} {k : Agent} (h : Phases m₀ d₀ m d) (a : Addr) (kind : AccessKind)
    (reason : RetryReason) (hw : d.window i = some w) (hk : (d.agent k).Serves) (hst : w.state ≠ .retiring) :
    Phases m₀ d₀ m (d.waitAccess i w k a kind reason).1 := by
  unfold Directory.waitAccess
  split
  · exact h
  · next hd =>
    refine h.phase (.enlist kind (online_of_serves hk (by simpa using hd)) fun v hv => ?_)
    rw [hw] at hv
    cases hv
    exact retire_of_state hst

theorem context_enlist (w : Window) (k : Agent) (kind : AccessKind) : (w.enlist k kind).context = w.context := by
  unfold Window.enlist
  split <;> rfl

theorem Phases.recallForAccess {i : SlotId} {w : Window} {k : Agent} (h : Phases m₀ d₀ m d) (hs : m.Settled i) (now : Tick)
    (a : Addr) (kind : AccessKind) (hw : d.window i = some w) (hk : (d.agent k).Serves) (hc : w.context = none) :
    Phases m₀ d₀ m (d.recallForAccess now i w k a kind).1 := by
  unfold Directory.recallForAccess
  split
  · exact h
  · next hd =>
    have listed : Phases m₀ d₀ m (d.modWindow i (·.enlist k kind)) :=
      h.phase (.enlist kind (online_of_serves hk (by simpa using hd)) fun v hv => by
        rw [hw] at hv
        cases hv
        simp [hc])
    refine Phases.checkCompletion (listed.works ?_) hs now
    refine (Works.refl m _).startRecall (cause := .waiter) hs now false _ trivial fun v hv => ?_
    simp only [window_modWindow, if_true, hw, Option.map_some] at hv
    cases hv
    rw [context_enlist]
    exact hc

theorem class_neither {kind : AccessKind} {h : Holding} (g : ¬ kind.class h = .holderAccess)
    (g' : (kind.class h).grows = false) : kind.class h = .neither := by
  cases e : kind.class h <;> simp_all [AccessClass.grows]

theorem Phases.windowStage {i : SlotId} {w : Window} {k : Agent} {kind : AccessKind} (h : Phases m₀ d₀ m d) (hs : m.Settled i)
    (now : Tick) (a : Addr) (g : Decides d i w k kind) : Phases m₀ d₀ m (d.windowStage now i w k a kind).1 := by
  unfold Directory.windowStage
  dsimp only
  split
  · next hcls => exact h.grantAccess hs now a false g (.inr (holdingAfter_of_class (.inl hcls)))
  · next hcls =>
    split
    · exact h
    · exact h
    · next hst =>
      split
      · exact h
      · split
        · exact h.waitAccess a kind _ g.window g.serves (by rw [hst]; nofun)
        · next hgrow =>
          simp only [Bool.or_eq_true, not_or, Bool.not_eq_true] at hgrow
          exact h.grantAccess hs now a false g (.inr (holdingAfter_of_class (.inr (class_neither hcls hgrow.1))))
    all_goals
      next hst =>
      have hc := context_of_state (w := w) (by simp [hst])
      repeat' split
      · exact h.recallForAccess hs now a kind g.window g.serves hc
      · exact h.grantAccess hs now a false g (.inl hc)
      · exact h.recallForAccess hs now a kind g.window g.serves hc
      · exact h.grantAccess hs now a true g (.inl hc)
      · exact h.waitAccess a kind _ g.window g.serves (by rw [hst]; nofun)
      · exact h.grantAccess hs now a false g (.inl hc)

theorem matched_window {a : Addr} {i : SlotId} {w : Window} (h : d.matched a = some (i, w)) : d.window i = some w := by
  unfold Directory.matched at h
  split at h
  · cases h
  · next j l e =>
    obtain ⟨v, hv, he⟩ := Option.map_eq_some_iff.1 h
    cases he
    exact hv

theorem serves_of_denial {k : Agent} (h : (d.agent k).denial = none) : (d.agent k).Serves := by
  unfold AgentRecord.denial at h
  unfold AgentRecord.Serves
  cases e : (d.agent k).state <;> simp_all

theorem decided_of_uncached {kind : AccessKind} {b : Bool} (h : b = false) : kind.decided b = .fetch ∨ kind.decided b = .store := by
  subst h
  cases kind <;> simp [AccessKind.decided]

theorem Phases.decideAccess (h : Phases m₀ d₀ m d) (hs : ∀ i, m.Settled i) (now : Tick) (k : Agent) (r : Request)
    (sent : AccessKind) : Phases m₀ d₀ m (d.decideAccess now k r sent).1 := by
  unfold Directory.decideAccess
  split
  · exact h
  · next hden =>
    split
    · exact h
    · split
      · exact h
      · next i w hm =>
        unfold Directory.matchedAccess
        dsimp only
        split
        · exact h
        · split
          · exact h
          · next hright =>
            split
            · exact h
            · exact h.windowStage (hs i) now r.address
                ⟨matched_window hm, serves_of_denial hden, by simpa using hright, decided_of_uncached⟩

/-- A request of another kind leaves the directory as it is, or is decided for its matched window. -/
theorem Phases.decideOther (h : Phases m₀ d₀ m d) (k : Agent) (r : Request) {decide : SlotId → Window → Directory × Verdict}
    (g : ∀ i w, d.window i = some w → (d.agent k).Serves → Phases m₀ d₀ m (decide i w).1) :
    Phases m₀ d₀ m (d.decideOther k r decide).1 := by
  unfold Directory.decideOther
  split
  · exact h
  · next hden =>
    split
    · exact h
    · next i w hm => exact g i w (matched_window hm) (serves_of_denial hden)

/-! ### RELEASE, PIN, UNPIN, WITHDRAW (R65, R76, R78, R83) -/

theorem Phases.lowerByRelease {i : SlotId} {w : Window} {k : Agent} {l : Holding} (h : Phases m₀ d₀ m d)
    (hs : ∀ i, m.Settled i) (now : Tick) (hw : d.window i = some w) (low : l.rank ≤ (w.holding k).rank) :
    Phases m₀ d₀ m (d.lowerByRelease now i k l) := by
  have lowered : (if l = .none then (d.setHolding i k l).setPins i k 0 else d.setHolding i k l) =
      withAgent (withWindow d i { w with holdings := put w.holdings k l, pins := if l = .none then put w.pins k 0 else w.pins })
        k { d.agent k with holdingCount := countAfter (d.agent k).holdingCount (w.holding k) l } := by
    simpa using Directory.lower_eq l (decide (l = .none)) hw
  have cell : ∀ v : Window, w.Eases v → v.holdings = put w.holdings k l → d.Eases (some i)
      (withAgent (withWindow d i v) k
        { d.agent k with holdingCount := countAfter (d.agent k).holdingCount (w.holding k) l }) := fun v hv hh =>
    .cell hw hv (fun j hj => by simp [Window.holding, hh, hj]) rfl rfl (by simp [Window.holding, hh]) (.inr id)
  unfold Directory.lowerByRelease
  refine Phases.settle ?_ hs now d
  rw [lowered]
  unfold Directory.reportRelease
  cases hc : w.context with
  | none =>
    simp only [context_eq, window_withAgent, window_withWindow, if_true, Option.bind_some]
    refine h.easeAt (hs i) (cell _ (Window.eases_of_closed hc (by simp [hc]) id fun j => ?_) rfl)
    by_cases e : j = k
    · subst e; simpa [Window.holding] using low
    · simp [Window.holding, e]
  | some c =>
    have released := Window.eases_released (k := k) hc low
    simp only [context_eq, window_withAgent, window_withWindow, if_true, Option.bind_some]
    split
    · next hsat =>
      rw [if_pos hsat] at released
      have left : (withAgent (withWindow d i { w with
            holdings := put w.holdings k l, pins := if l = .none then put w.pins k 0 else w.pins, context := some c }) k
            { d.agent k with holdingCount := countAfter (d.agent k).holdingCount (w.holding k) l }).modContext i
              (·.setMember k .neither) =
          withAgent (withWindow d i { w with
            holdings := put w.holdings k l, pins := if l = .none then put w.pins k 0 else w.pins
            context := some (c.setMember k .neither) }) k
            { d.agent k with holdingCount := countAfter (d.agent k).holdingCount (w.holding k) l } := by
        rw [modContext_eq (w := { w with
            holdings := put w.holdings k l, pins := if l = .none then put w.pins k 0 else w.pins, context := some c })
          (c := c) _ (by simp) rfl, withAgent_withWindow, withWindow_withWindow]
      have gone := h.easeAt (hs i) (cell _ released rfl)
      rw [← left] at gone
      refine Phases.checkCompletion ?_ (hs i) now
      split
      · exact gone.ease (((Directory.Eases.refl none _).withdrawRecall i k).creditScore k)
      · exact gone
    · next hsat =>
      rw [if_neg hsat] at released
      exact h.easeAt (hs i) (cell _ released rfl)

theorem Phases.decideRelease {i : SlotId} {w : Window} (h : Phases m₀ d₀ m d) (hs : ∀ i, m.Settled i) (now : Tick) (k : Agent)
    (a : Addr) (l : Level) (hw : d.window i = some w) : Phases m₀ d₀ m (d.decideRelease now k a l i w).1 := by
  unfold Directory.decideRelease
  split
  · next ha => exact h.lowerByRelease hs now hw (above_iff.1 ha).le
  · exact h

theorem Phases.decideReleaseRequest (h : Phases m₀ d₀ m d) (hs : ∀ i, m.Settled i) (now : Tick) (k : Agent) (r : Request) :
    Phases m₀ d₀ m (d.decideReleaseRequest now k r).1 := by
  unfold Directory.decideReleaseRequest
  split
  · exact h
  · exact h
  · exact h.decideOther k r fun i w hw _ => h.decideRelease hs now k r.address _ hw

theorem Phases.decidePin {i : SlotId} {w : Window} (h : Phases m₀ d₀ m d) (now : Tick) (k : Agent) (a : Addr)
    (hw : d.window i = some w) : Phases m₀ d₀ m (d.decidePin now k a i w).1 := by
  unfold Directory.decidePin
  repeat' split
  case isFalse.isFalse.isFalse.isFalse.isFalse.isFalse hout hlimit =>
    refine h.ease (.pin now (fun v c hv hc _ => ⟨fun ho => ?_, fun _ => ?_⟩) none)
    · rw [hw] at hv
      cases hv
      rw [member_of_context hw hc] at hout
      exact absurd ho hout
    · intro hn
      have := congrArg BitVec.toNat hn
      have hlt := (w.pinCount k).isLt
      have hne : (w.pinCount k).toNat ≠ 15 := fun e => hlimit (BitVec.eq_of_toNat_eq e)
      simp [BitVec.toNat_add] at this
      omega
  all_goals exact h

theorem Phases.decideUnpin {i : SlotId} {w : Window} (h : Phases m₀ d₀ m d) (hs : m.Settled i) (now : Tick) (k : Agent)
    (a : Addr) (hw : d.window i = some w) : Phases m₀ d₀ m (d.decideUnpin now k a i w).1 := by
  unfold Directory.decideUnpin
  split
  · exact h
  · next hp =>
    dsimp only
    split
    · next hb =>
      obtain ⟨h1, hblk⟩ := (Bool.and_eq_true _ _).mp hb
      have h1 : w.pinCount k = 1 := of_decide_eq_true h1
      have hm : (d.member i k).isMember = true := by simp [Membership.isMember, hblk]
      have moved : ∀ x : Wait, d.Eases (some i)
          (((d.setPins i k (w.pinCount k - 1)).modWindow i (·.granted now)).modContext i (·.setMember k (.outstanding x))) := by
        intro x
        rw [Directory.setPins, Directory.modContext, modWindow_modWindow, modWindow_modWindow, h1]
        refine (Directory.Eases.refl _ d).modWindow i fun v hv => ⟨?_, rfl⟩
        rw [hw] at hv
        cases hv
        obtain ⟨w', c, hw', hc, he⟩ := member_eq_some (d := d) (i := i) (k := k) (by intro e; rw [e] at hblk; cases hblk)
        rw [hw] at hw'
        cases hw'
        exact Window.eases_unpinned now x hc (by rw [← he]; exact hblk)
      exact h.easeAt hs (((moved _).placeRecall i (mayNotify_of_member hm)).awaitVerdict i k)
    · next hb =>
      refine h.ease (.pin now (fun v c hv hc hcell => ⟨fun ho => ?_, fun hblk hn => ?_⟩) none)
      · rw [hw] at hv
        cases hv
        exact absurd (hcell.1 ho).2 hp
      · rw [hw] at hv
        cases hv
        rw [member_of_context hw hc, hblk] at hb
        have : w.pinCount k = 1 := by
          have := congrArg (· + 1) hn
          simpa using this
        simp [this] at hb

theorem Phases.decideWithdraw {i : SlotId} {w : Window} (h : Phases m₀ d₀ m d) (hs : ∀ i, m.Settled i) (now : Tick) (k : Agent)
    (a : Addr) (hk : (d.agent k).Serves) : Phases m₀ d₀ m (d.decideWithdraw now k a i w).1 := by
  unfold Directory.decideWithdraw
  split
  · exact h
  · have g := (Works.refl m d).leaveWaiters (i := i) (k := k) (fun j hj => hs i j hj.1) now hk
    exact h.works (g.relax ((m.within_without k i).relaxes _))

end

end Sys2Proof.Machine
end

section
/-! SUPPORT. The phases of the commands (spec files 01, 02, 06 to 09): from the command taken to the event's end. -/

namespace Sys2Proof.Machine

open Sys2Proof.Safety

theorem keptTag_revise (d : Directory) (i : SlotId) :
    keptTag d (.revise i) = ((d.window i).bind (·.revision)).map (·.tag) := rfl

theorem keptTag_retire (d : Directory) (i : SlotId) : keptTag d (.retire i) = (d.window i).bind (·.retireTag) := rfl

theorem keptTag_watch (d : Directory) (i : SlotId) : keptTag d (.watch i) = ((d.window i).bind (·.watch)).map (·.tag) := rfl

theorem keptTag_detach (d : Directory) (k : Agent) : keptTag d (.detach k) = (d.agent k).detach.map (·.tag) := rfl

/-- The REVISE of a slot keeps a tag while the window is revising. -/
theorem keptTag_revise_ne_none {d : Directory} {i : SlotId} : keptTag d (.revise i) ≠ none ↔ d.revising i = true := by
  rw [keptTag_revise, Directory.revising]
  cases d.window i with
  | none => simp
  | some w => simp [Option.isSome_iff_ne_none]

theorem context_stage (d : Directory) (i : SlotId) (p : PendingRevision) : (d.stage i p).context i = d.context i := by
  unfold Directory.stage
  rw [context_eq, context_eq, window_modWindow, if_pos rfl]
  cases d.window i <;> rfl

/-- The window with a pending revision superseded (R133). -/
def Window.superseded (w : Window) (force : Bool) : Window :=
  if w.revision.isSome then
    { w with revision := none }.modContext fun c => { c with revision := false, retire := true, force := force }
  else w

/-- The window without waiters and reservation, and with its Retire Tag (R134). -/
def Window.emptied (w : Window) (t : Tag) : Window := { w with reservation := none, waiters := [], retireTag := some t }

/-- The window when RETIRE has become a cause, before any target (R133, R134, R135). -/
def Window.retireStarted (w : Window) (t : Tag) (force : Bool) : Window :=
  { (w.superseded force).emptied t with
    context := some (((w.superseded force).context.getD (.blank force)).addCause .retire) }

/-- The window when REVISION has become a cause, before any target (R124, R125). -/
def Window.reviseStarted (w : Window) (p : PendingRevision) : Window :=
  { w with
    reservation := if w.context.isSome then w.reservation else none
    revision := some p
    context := some ((w.context.getD (.blank p.force)).addCause .revision) }

/-- The window as RETIRE finds it when it is handed over, and the record of a REVISE superseded. -/
theorem emptyForRetire_eq {d : Directory} {i : SlotId} {w : Window} (force : Bool) (t : Tag) (hw : d.window i = some w) :
    ∃ d₁ : Directory, ((w.revision = none ∧ d₁ = d) ∨ ∃ p r, w.revision = some p ∧ r.tag = p.tag ∧ d₁ = d.finish r) ∧
      (d.supersede i force).emptyForRetire i t =
        withWindow d₁ i ((w.superseded force).emptied t) := by
  have marked : ∃ d₁ : Directory,
      ((w.revision = none ∧ d₁ = d) ∨ ∃ p r, w.revision = some p ∧ r.tag = p.tag ∧ d₁ = d.finish r) ∧
      d.supersede i force = withWindow d₁ i (w.superseded force) := by
    unfold Directory.supersede Window.superseded
    rw [hw, Option.bind_some]
    cases hr : w.revision with
    | none => exact ⟨d, .inl ⟨rfl, rfl⟩, (withWindow_self hw).symm⟩
    | some p =>
      dsimp only
      rw [modWindow_eq_withWindow _ hw]
      exact ⟨d.finish _, .inr ⟨p, _, rfl, rfl, rfl⟩, rfl⟩
  obtain ⟨d₁, h, e⟩ := marked
  refine ⟨d₁, h, ?_⟩
  rw [e, Directory.emptyForRetire, modWindow_eq_withWindow (w := w.superseded force) _ (by simp), withWindow_withWindow,
    Window.emptied]

theorem isSome_superseded (w : Window) (force : Bool) : (w.superseded force).context.isSome = w.context.isSome := by
  unfold Window.superseded
  split
  · simp [Window.modContext]
  · rfl

theorem allHolders_congr {v w : Window} (h : v.holdings = w.holdings) : v.allHolders = w.allHolders := by
  unfold Window.allHolders Window.holding
  rw [h]

theorem holdings_superseded (w : Window) (force : Bool) : (w.superseded force).holdings = w.holdings := by
  unfold Window.superseded
  split <;> rfl

/-- A cause that joins the recall of a window just written. -/
theorem addCause_withWindow {d : Directory} {i : SlotId} {v : Window} (cause : Cause) (hc : v.context.isSome) (c : RecallContext) :
    (withWindow d i v).addCause i cause = withWindow d i { v with context := some ((v.context.getD c).addCause cause) } := by
  obtain ⟨x, hx⟩ := Option.isSome_iff_exists.1 hc
  rw [Directory.addCause, modContext_eq (w := v) (c := x) _ (by simp) hx, withWindow_withWindow, hx]
  rfl

/-- A recall that starts in a window just written. -/
theorem createContext_withWindow {d : Directory} {i : SlotId} {v : Window} (cause : Cause) (force : Bool)
    (hc : ¬ v.context.isSome) :
    (withWindow d i v).createContext i cause force =
      withWindow d i { v with reservation := none, context := some ((v.context.getD (.blank force)).addCause cause) } := by
  rw [Directory.createContext, modWindow_eq_withWindow (w := v) _ (by simp), withWindow_withWindow,
    Option.not_isSome_iff_eq_none.1 hc]
  rfl

/-- The table with RETIRE as a cause: one window rewritten, after the record of a REVISE superseded. -/
theorem retireStarted_eq {d : Directory} {i : SlotId} {w : Window} (t : Tag) (force : Bool) (hw : d.window i = some w) :
    ∃ d₁ : Directory, ((w.revision = none ∧ d₁ = d) ∨ ∃ p r, w.revision = some p ∧ r.tag = p.tag ∧ d₁ = d.finish r) ∧
      d.retireStarted i t force = withWindow d₁ i (w.retireStarted t force) := by
  obtain ⟨d₁, h, e⟩ := emptyForRetire_eq force t hw
  refine ⟨d₁, h, ?_⟩
  unfold Directory.retireStarted
  rw [e, context_eq, hw, Option.bind_some, ← isSome_superseded w force]
  split
  · next hc => exact addCause_withWindow (v := (w.superseded force).emptied t) .retire hc _
  · next hc => exact createContext_withWindow (v := (w.superseded force).emptied t) .retire force hc

/-- The table with REVISION as a cause: one window rewritten. -/
theorem reviseStarted_eq {d : Directory} {i : SlotId} {w : Window} (p : PendingRevision) (hw : d.window i = some w) :
    d.reviseStarted i p = withWindow d i (w.reviseStarted p) := by
  unfold Directory.reviseStarted Directory.stage Window.reviseStarted
  rw [context_eq, hw, Option.bind_some, modWindow_eq_withWindow _ hw]
  split
  · next hc => exact addCause_withWindow (v := { w with revision := some p }) .revision hc _
  · next hc => exact createContext_withWindow (v := { w with revision := some p }) .revision p.force hc

/-- The window table with REVISION handed over, up to its completion check. -/
def Directory.revisionMerged (d : Directory) (now : Tick) (i : SlotId) (force : Bool) (ts : List (Agent × Level)) : Directory :=
  if (d.context i).isSome then d.joinRevision now i force ts else d.startRecall now i .revision force ts

/-- The window table with RETIRE handed over, up to its completion check. -/
def Directory.retireMerged (d : Directory) (now : Tick) (i : SlotId) (force : Bool) (ts : List (Agent × Level)) : Directory :=
  if (d.context i).isSome then
    if force then ((d.addCause i .retire).mergeTargets now i ts).turnForceOn i
    else ((d.addCause i .retire).mergeTargets now i ts).setForce i false
  else d.startRecall now i .retire force ts

theorem handOverRevision_eq (d : Directory) (now : Tick) (i : SlotId) (force : Bool) (ts : List (Agent × Level)) :
    d.handOverRevision now i force ts = (d.revisionMerged now i force ts).checkCompletion now i := rfl

theorem handOverRetire_eq {d : Directory} {i : SlotId} {w : Window} (now : Tick) (force : Bool) (hw : d.window i = some w) :
    d.handOverRetire now i force = (d.retireMerged now i force w.allHolders).checkCompletion now i := by
  simp only [Directory.handOverRetire, Directory.retireMerged, context_eq, hw, Option.bind_some]

namespace Directory

/-- Force turns on, if the command asks for it. -/
theorem Eases.force {a d : Directory} {i : SlotId} (h : Eases (some i) a d) (b : Bool) :
    Eases (some i) a (if b then d.turnForceOn i else d) := by
  split
  · exact h.turnForceOn
  · exact h

theorem Asked.eases {d e : Directory} {i : SlotId} {ts : List (Agent × Level)} (h : d.Asked i ts) (g : Eases (some i) d e) :
    e.Asked i ts := by
  intro v hv k l hk
  obtain ⟨w, hw, he⟩ := g.window_some hv
  exact he.asks (h w hw k l hk)

/-- Where a recall runs, merged targets are asked for. -/
theorem asked_mergeTargets {d : Directory} {i : SlotId} (now : Tick) (ts : List (Agent × Level))
    (h : ∀ w, d.window i = some w → w.context.isSome) : (d.mergeTargets now i ts).Asked i ts := by
  intro v hv k l hk
  obtain ⟨w, hw, _⟩ := ((Eases.refl (some i) d).mergeTargets now ts).window_some hv
  obtain ⟨c, hc⟩ := Option.isSome_iff_exists.1 (h w hw)
  exact asks_mergeTargets now ts hw hc hv hk

theorem running_createContext (d : Directory) (i : SlotId) (cause : Cause) (force : Bool) (w : Window)
    (h : (d.createContext i cause force).window i = some w) : w.context.isSome := by
  simp only [Directory.createContext, window_modWindow, if_true, Option.map_eq_some_iff] at h
  obtain ⟨v, _, rfl⟩ := h
  rfl

theorem running_addCause {d : Directory} {i : SlotId} (cause : Cause) (hc : (d.context i).isSome) (w : Window)
    (h : (d.addCause i cause).window i = some w) : w.context.isSome := by
  simp only [Directory.addCause, window_modContext, if_true, Option.map_eq_some_iff] at h
  obtain ⟨v, hv, rfl⟩ := h
  simpa [context_eq, hv, Window.modContext] using hc

theorem Eases.running {d e : Directory} {i : SlotId} (g : Eases (some i) d e)
    (h : ∀ w, d.window i = some w → w.context.isSome) (w : Window) (hw : e.window i = some w) : w.context.isSome := by
  obtain ⟨v, hv, he⟩ := g.window_some hw
  rw [he.running]
  exact h v hv

/-- REVISION handed over eases what its cause started, and asks every affected holder to come down (R124, R125). -/
theorem revisionMerged_eases (d : Directory) (now : Tick) (i : SlotId) (p : PendingRevision) (ts : List (Agent × Level)) :
    Eases (some i) (d.reviseStarted i p) ((d.stage i p).revisionMerged now i p.force ts) ∧
      ((d.stage i p).revisionMerged now i p.force ts).Asked i ts := by
  unfold Directory.reviseStarted Directory.revisionMerged
  rw [context_stage]
  split
  · next hc =>
    rw [← context_stage d i p] at hc
    have forced := (Eases.refl (some i) ((d.stage i p).addCause i .revision)).force p.force
    have asked := asked_mergeTargets now ts (forced.running (running_addCause _ hc))
    exact ⟨(forced.mergeTargets now ts).force p.force, asked.eases ((Eases.refl _ _).force p.force)⟩
  · exact ⟨(Eases.refl _ _).mergeTargets now ts, asked_mergeTargets now ts (running_createContext _ i _ _)⟩

/-- RETIRE handed over eases what its cause started, and asks every holder to let go (R134, R135). -/
theorem retireMerged_eases {d : Directory} {i : SlotId} {w : Window} (now : Tick) (t : Tag) (force : Bool)
    (ts : List (Agent × Level)) (hw : d.window i = some w) :
    Eases (some i) (d.retireStarted i t force) (((d.supersede i force).emptyForRetire i t).retireMerged now i force ts) ∧
      (((d.supersede i force).emptyForRetire i t).retireMerged now i force ts).Asked i ts := by
  obtain ⟨d₁, _, started⟩ := emptyForRetire_eq force t hw
  have same : (((d.supersede i force).emptyForRetire i t).context i).isSome = (d.context i).isSome := by
    rw [started, context_eq, context_eq, hw, window_withWindow, if_pos rfl]
    exact isSome_superseded w force
  unfold Directory.retireStarted Directory.retireMerged
  rw [same]
  split
  · next hc =>
    rw [← same] at hc
    have merged := (Eases.refl (some i) (((d.supersede i force).emptyForRetire i t).addCause i .retire)).mergeTargets now ts
    have asked := asked_mergeTargets now ts (running_addCause .retire hc)
    split
    · exact ⟨merged.turnForceOn, asked.eases (Eases.refl _ _).turnForceOn⟩
    · exact ⟨merged.setForce i false, asked.eases ((Eases.refl _ _).setForce i false)⟩
  · exact ⟨(Eases.refl _ _).mergeTargets now ts, asked_mergeTargets now ts (running_createContext _ i _ _)⟩

end Directory

section
variable {m₀ m : Mode} {d₀ d : Directory} {e : Entry}

theorem Phases.reply (h : Phases m₀ d₀ .command d) (e : Entry) (x : Status) (v : Word) :
    Phases m₀ d₀ .whole (d.reply e x v) := h.phase (.record _)

/-! ### OPEN, QUERY, QUERY_ADDR (R17, R18, R19) -/

theorem Phases.openWindow (h : Phases m₀ d₀ .command d) (now : Tick) (e : Entry) :
    Phases m₀ d₀ .whole (d.openWindow now e) := by
  unfold Directory.openWindow
  dsimp only
  split
  · exact h.reply e _ _
  · next i hi =>
    have vacant : d.window i = none := by simpa using List.find?_some hi
    repeat' split
    · exact h.reply e _ _
    · exact h.reply e _ _
    · next ho => exact (h.phase (.openWindow _ now vacant (by simpa using ho))).reply e _ _

theorem Phases.query (h : Phases m₀ d₀ .command d) (e : Entry) : Phases m₀ d₀ .whole (d.query e) := by
  unfold Directory.query
  dsimp only
  split <;> exact h.phase (.record _)

theorem Phases.queryAddr (h : Phases m₀ d₀ .command d) (e : Entry) : Phases m₀ d₀ .whole (d.queryAddr e) := by
  unfold Directory.queryAddr
  split <;> exact h.reply e _ _

/-! ### REVISE (R121 to R125) -/

theorem Phases.reviseLater {i : SlotId} {w : Window} {f : FieldSet} (h : Phases m₀ d₀ .command d) (now : Tick) (force : Bool)
    (hw : d.window i = some w) (calm : w.context.any (·.retire) = false ∧ w.context.any (·.revision) = false)
    (apart : d.overlapFound (some i) f = false) (fresh : d.tagInUse e.tag = false) :
    Phases m₀ d₀ .whole (d.reviseLater now i w e f force) := by
  obtain ⟨eased, asked⟩ :=
    Directory.revisionMerged_eases d now i { fields := f, force := force, tag := e.tag } (w.affected f)
  have checked := (h.phase (.revise hw calm apart fresh eased asked)).checkCompletion (Mode.settled_airborne _ i) now
  unfold Directory.reviseLater
  dsimp only
  rw [handOverRevision_eq]
  refine Phases.settle ?_ Mode.settled_whole now d
  split
  · next hr => exact checked.phase (.park (keptTag_revise_ne_none.2 hr))
  · next hr => exact checked.phase (.land (not_not.1 fun hk => hr (keptTag_revise_ne_none.1 hk)))

theorem Phases.acceptRevise {i : SlotId} {w : Window} {f : FieldSet} (h : Phases m₀ d₀ .command d) (now : Tick) (force : Bool)
    (hw : d.window i = some w) (calm : w.context.any (·.retire) = false ∧ w.context.any (·.revision) = false)
    (apart : d.overlapFound (some i) f = false) (fresh : d.tagInUse e.tag = false) :
    Phases m₀ d₀ .whole (d.acceptRevise now i w e f force) := by
  unfold Directory.acceptRevise
  split
  · next hnow =>
    simp only [Bool.and_eq_true, Option.isNone_iff_eq_none, List.isEmpty_iff] at hnow
    exact ((h.phase (.reviseNow f hw hnow.1 hnow.2 apart)).headService (Mode.settled_command i) now).reply e _ _
  · exact h.reviseLater now force hw calm apart fresh

theorem Phases.revise (h : Phases m₀ d₀ .command d) (now : Tick) (fresh : d.tagInUse e.tag = false) :
    Phases m₀ d₀ .whole (d.revise now e) := by
  unfold Directory.revise
  dsimp only
  repeat' split
  case h_2.isFalse w hw hret hrev _ _ ho =>
    exact h.acceptRevise now _ hw ⟨retire_of_state hret, revision_of_state hret hrev⟩ (by simpa using ho) fresh
  all_goals exact h.reply e _ _

/-! ### RETIRE (R132 to R135) -/

/-- The completion check of a RETIRE frees the slot, or the record still keeps the tag. -/
theorem retire_checked {i : SlotId} {w : Window} {c : RecallContext} {t : Tag} (now : Tick) (hw : d.window i = some w)
    (hc : w.context = some c) (hr : c.retire = true) (ht : w.retireTag = some t) :
    (d.checkCompletion now i).window i = none ∨ keptTag (d.checkCompletion now i) (.retire i) ≠ none := by
  unfold Directory.checkCompletion
  rw [context_eq, hw, Option.bind_some, hc]
  dsimp only
  split
  · refine .inr ?_
    simp [keptTag, hw, ht]
  · refine .inl ?_
    unfold Directory.complete Directory.completeRetirement
    rw [if_pos hr]
    dsimp only
    split <;> simp

theorem Phases.acceptRetire {i : SlotId} {w : Window} (h : Phases m₀ d₀ .command d) (now : Tick) (force : Bool)
    (hw : d.window i = some w) (calm : w.context.any (·.retire) = false) (fresh : d.tagInUse e.tag = false) :
    Phases m₀ d₀ .whole (d.acceptRetire now i e force) := by
  obtain ⟨d₁, _, started⟩ := emptyForRetire_eq force e.tag hw
  have hv : ((d.supersede i force).emptyForRetire i e.tag).window i = some ((w.superseded force).emptied e.tag) := by
    rw [started, window_withWindow, if_pos rfl]
  have holders : ((w.superseded force).emptied e.tag).allHolders = w.allHolders :=
    allHolders_congr (holdings_superseded w force)
  obtain ⟨eased, asked⟩ := Directory.retireMerged_eases now e.tag force w.allHolders hw
  have merged := h.phase (.retire hw calm fresh eased asked)
  obtain ⟨d₂, _, e₂⟩ := retireStarted_eq e.tag force hw
  obtain ⟨u, hu, he⟩ := eased.window_some' (i := i) (w := w.retireStarted e.tag force) (by rw [e₂, window_withWindow, if_pos rfl])
  obtain ⟨c, hc, hr⟩ := (Option.any_eq_true _ _).1 (he.retiring.trans rfl)
  have ended := retire_checked now hu hc hr he.retireTag
  unfold Directory.acceptRetire
  dsimp only
  rw [handOverRetire_eq now force hv, holders]
  refine Phases.settle ?_ Mode.settled_whole now d
  have checked := merged.checkCompletion (Mode.settled_airborne _ i) now
  split
  · next hs => exact checked.phase (.park (ended.resolve_left (Option.isSome_iff_ne_none.1 hs)))
  · next hs => exact checked.phase (.land (by simp [keptTag, Option.not_isSome_iff_eq_none.1 hs]))

theorem Phases.retire (h : Phases m₀ d₀ .command d) (now : Tick) (fresh : d.tagInUse e.tag = false) :
    Phases m₀ d₀ .whole (d.retire now e) := by
  unfold Directory.retire
  dsimp only
  split
  · exact h.reply e _ _
  · next i hi =>
    obtain ⟨w, hw, _⟩ := checkHandle_eq_some_iff.1 hi
    split
    · exact h.reply e _ _
    · next hst =>
      have hst : w.state ≠ .retiring := by
        rwa [Slot.state, show (look d.slots i).window = some w from hw] at hst
      exact h.acceptRetire now _ hw (retire_of_state hst) fresh

/-! ### WATCH (R150) -/

theorem Phases.startWatch (h : Phases m₀ d₀ .command d) (fresh : d.tagInUse e.tag = false) :
    Phases m₀ d₀ .whole (d.startWatch e) := by
  unfold Directory.startWatch
  dsimp only
  repeat' split
  case isFalse hw hret hwatch _ =>
    exact h.phase (.watch e.watch hw (by simpa using hwatch) fresh)
  all_goals exact h.reply e _ _

/-! ### ABORT (R130, R153, R162, R182) -/

theorem Phases.abortRevision {i : SlotId} {t : Tag} (h : Phases m₀ d₀ .command d) (now : Tick)
    (parked : { tag := t, work := .revise i } ∈ d.parked) : Phases m₀ d₀ .command (d.abortRevision now i t) := by
  have given := h.phase (.abortRevision parked)
  exact (given.works ((Works.refl _ _).afterCauseLeft (Mode.settled_aborting t i) now)).phase
    (.endAbort (Record.counted t .revise .aborted _ _))

theorem Phases.abortDetach (h : Phases m₀ d₀ .command d) (now : Tick) (k : Agent) :
    Phases m₀ d₀ .command (d.abortDetach now k) := by
  have rejoined := h.phase (.rejoin k)
  generalize hd : d.modAgent k (fun a => { a with state := .online }) = x at rejoined
  have left := Works.leaveDetaches (m := Mode.command.depart k) (k := k) (b := false) Mode.settled_command now
    (x.detachSlots k) (Works.refl _ x) fun hb => absurd hb Bool.false_ne_true
  unfold Directory.abortDetach
  rw [hd]
  exact (rejoined.works left).phase (.endDetach k .aborted)

theorem Phases.abort (h : Phases m₀ d₀ .command d) (now : Tick) (e : Entry) : Phases m₀ d₀ .whole (d.abort now e) := by
  unfold Directory.abort
  dsimp only
  split
  · exact h.reply e _ _
  · next p hp =>
    have parked := List.mem_of_find?_eq_some hp
    obtain ⟨t, work⟩ := p
    cases work with
    | revise i => exact (h.abortRevision now parked).reply e _ _
    | retire i => exact h.reply e _ _
    | watch i => exact (h.phase (.endWatch (r := Record.counted t .watch .aborted _ 0) (.inr ⟨parked, id⟩))).reply e _ _
    | detach k => exact (h.abortDetach now k).reply e _ _

/-! ### The agent commands (R27, R28, R29, R156, R157, R166) -/

theorem Phases.forAgent (h : Phases m₀ d₀ .command d) (e : Entry) {run : Agent → Directory}
    (g : ∀ k, Phases m₀ d₀ .whole (run k)) : Phases m₀ d₀ .whole (d.forAgent e run) := by
  unfold Directory.forAgent
  split
  · exact h.reply e _ _
  · exact g _

theorem Phases.admitAgent (h : Phases m₀ d₀ .command d) (e : Entry) : Phases m₀ d₀ .whole (d.admitAgent e) := by
  refine h.forAgent e fun k => ?_
  repeat' split
  · exact h.reply e _ _
  · exact h.reply e _ _
  · next hout => exact (h.phase (.admission _ (by simpa using hout))).reply e _ _

theorem Phases.setSettings (h : Phases m₀ d₀ .command d) (e : Entry) : Phases m₀ d₀ .whole (d.setSettings e) := by
  refine h.forAgent e fun k => ?_
  repeat' split
  · exact h.reply e _ _
  · exact h.reply e _ _
  · exact (h.ease ((Directory.Eases.refl none d).modAgent k ⟨rfl, rfl, rfl⟩ (.inr id))).reply e _ _

theorem Phases.queryAgent (h : Phases m₀ d₀ .command d) (e : Entry) : Phases m₀ d₀ .whole (d.queryAgent e) :=
  h.forAgent e fun _ => h.phase (.record _)

theorem Phases.fenceAgent (h : Phases m₀ d₀ .command d) (now : Tick) (e : Entry) :
    Phases m₀ d₀ .whole (d.fenceAgent now e) := by
  refine h.forAgent e fun k => ?_
  split
  · exact (h.fence Mode.settled_command now k).reply e _ _
  · exact h.reply e _ _

/-- A detach begun: the agent has left every list, and DETACH is handed over wherever it holds (R157, R158). -/
theorem Works.startDetach {k : Agent} {p : Parked} (now : Tick) (t : Tag) (force : Bool)
    (h : Works m₀ d₀ ((Mode.airborne p).straying k fun _ => True)
      (d.modAgent k fun a => { a with state := .detaching, detach := some { tag := t, forced := 0 } })) :
    Works m₀ d₀ (.airborne p) (d.startDetach now k t force) := by
  obtain ⟨left, _⟩ := Works.straying_foldl (f := fun d i => d.leaveWaiters now k i) (fun x => (x.agent k).Serves)
    (fun n x i hn hk =>
      have g := (Works.refl n x).leaveWaiters hn now hk
      ⟨g, by rw [AgentRecord.Serves, g.calm.states k]; exact hk⟩) _ h.straying_live
    (by rw [AgentRecord.Serves]; simp)
  exact left.foldl _ (fun x i => (Works.refl _ x).handOverDetach (Mode.settled_airborne p i) now k force) _

theorem Phases.acceptDetach {k : Agent} (h : Phases m₀ d₀ .command d) (now : Tick) (online : (d.agent k).state = .online)
    (fresh : d.tagInUse e.tag = false) : Phases m₀ d₀ .whole (d.acceptDetach now e k) := by
  have started := Works.startDetach (k := k) (p := { tag := e.tag, work := .detach k }) now e.tag (forceField (e.param 0))
    (Works.refl _ (d.modAgent k fun a => { a with state := .detaching, detach := some { tag := e.tag, forced := 0 } }))
  have state : ((d.startDetach now k e.tag (forceField (e.param 0))).agent k).state = .detaching := by
    rw [started.calm.states k]; simp
  have detach : ((d.startDetach now k e.tag (forceField (e.param 0))).agent k).detach.map (·.tag) = some e.tag := by
    rw [started.calm.detaches k]; simp
  have begun := (h.phase (.detach online fresh)).works started
  unfold Directory.acceptDetach
  dsimp only
  split
  · next hz =>
    refine (begun.completeDetach (Mode.settled_airborne _) now ⟨by rw [state]; nofun, hz⟩).phase (.land ?_)
    simp [keptTag, completeDetach_eq, agent_endDetach]
  · exact begun.phase (.park (by simp [keptTag, detach]))

theorem Phases.detachAgent (h : Phases m₀ d₀ .command d) (now : Tick) (fresh : d.tagInUse e.tag = false) :
    Phases m₀ d₀ .whole (d.detachAgent now e) := by
  refine h.forAgent e fun k => ?_
  split
  · next ho => exact h.acceptDetach now ho fresh
  · exact h.reply e _ _

end

end Sys2Proof.Machine
end

section
/-! SUPPORT. Every event is made of phases, or leaves the table as a reset does. -/

namespace Sys2Proof.Machine

open Sys2Proof.Safety

/-- No window, no result, and every agent record the initial one: the table after a reset (R21, R41, R187). -/
structure Directory.Blank (d : Directory) : Prop where
  windows : ∀ i, d.window i = none
  agents : ∀ k, d.agent k = .initial
  parked : d.parked = []
  completions : d.completions = []

theorem blank_afterReset (d : Directory) : d.afterReset.Blank :=
  ⟨Directory.window_afterReset d, fun k => by simp [Directory.agent, Directory.afterReset, Directory.initial], rfl, rfl⟩

theorem blank_powerOn (s : State) : s.powerOn.directory.Blank :=
  ⟨window_reset, agent_reset, rfl, rfl⟩

/-- What one event makes of the table. -/
def Passes (s t : State) : Prop := Phases .whole s.directory .whole t.directory ∨ t.directory.Blank

theorem Passes.of_same {s t : State} (h : t.directory = s.directory) : Passes s t := .inl (h ▸ Phases.refl _ _)

theorem Passes.of_ease {s t : State} (h : s.directory.Eases none t.directory) : Passes s t := .inl ((Phases.refl _ _).ease h)

theorem Passes.of_next {s t x : State} (g : Passes s x) (h : (.next x : Host.Outcome State Fault Refusal) = .next t) :
    Passes s t := by
  cases h
  exact g

/-! ### Takings (R43, R45, R177, R178) -/

theorem passes_takeRequest (s : State) (wants : BitVec 4 → Bool) {decide : Directory → Agent → Request → Directory × Verdict}
    (h : ∀ k r, Phases .whole s.directory .whole (decide s.directory k r).1) : Passes s (s.takeRequest wants decide) := by
  obtain e | ⟨k, r, _, _, e⟩ := takeRequest_cases s wants decide
  · exact .of_same (by rw [e])
  · exact .inl (e ▸ h k r)

theorem passes_takeEntry (s : State) (wants : BitVec 4 → Bool) {run : Directory → Entry → Directory}
    (h : ∀ e, Phases .whole s.directory .command s.directory → Phases .whole s.directory .whole (run s.directory e)) :
    Passes s (s.takeEntry wants run) := by
  obtain e | ⟨x, rest, ho, _, e⟩ := takeEntry_cases s wants run
  · exact .of_same (by rw [e])
  · have free : s.directory.placeFree = true := by simpa [Directory.placeFree] using ho.2
    exact .inl (e ▸ h x ((Phases.refl _ _).phase (.take free)))

theorem passes_takeCommand (s : State) (kind : CommandKind) {run : Directory → Entry → Directory}
    (h : ∀ e, s.directory.tagInUse e.tag = false → Phases .whole s.directory .command s.directory →
      Phases .whole s.directory .whole (run s.directory e)) : Passes s (s.takeCommand kind run) := by
  refine passes_takeEntry s _ fun e taken => ?_
  split
  · exact taken.reply e _ _
  · next fresh => exact h e (by simpa using fresh) taken

/-! ### Events of the links, of time and of the registers -/

theorem passes_noticeTaken (k : Agent) (s t : State) (h : execNoticeTaken k s = .next t) : Passes s t := by
  refine .of_next ?_ h
  split
  · exact .of_same rfl
  · next n _ hn =>
    split
    · exact .of_same rfl
    · exact .of_ease ((Directory.Eases.refl none _).takeNotice (hn ▸ List.mem_cons_self))

theorem passes_verdictReturned (k : Agent) (s t : State) (h : execVerdictReturned k s = .next t) : Passes s t := by
  refine .of_next ?_ h
  split
  · exact .of_ease (Directory.eases_verdictGiven none _ k)
  all_goals exact .of_same rfl

theorem passes_recallDeadline (i : SlotId) (k : Agent) (s t : State) (h : execRecallDeadline i k s = .next t) : Passes s t := by
  refine .of_next ?_ h
  split
  · exact .of_same rfl
  · next x hx =>
    unfold Directory.dueWait at hx
    split at hx
    · next y hm =>
      split at hx
      · cases hx
        exact .inl ((Phases.refl _ _).passDeadline Mode.settled_whole s.clock hm)
      · cases hx
    all_goals cases hx

theorem passes_reservationLapse (i : SlotId) (s t : State) (h : execReservationLapse i s = .next t) : Passes s t := by
  refine .of_next ?_ h
  split
  · exact .of_same rfl
  · exact .inl ((Phases.refl _ _).lapse (Mode.settled_whole i) s.clock _)

theorem passes_idleDeadline (i : SlotId) (s t : State) (h : execIdleDeadline i s = .next t) : Passes s t := by
  refine .of_next ?_ h
  split
  · exact .of_same rfl
  · next w hw => exact .inl ((Phases.refl _ _).passIdle (Mode.settled_whole i) s.clock (Option.filter_eq_some_iff.1 hw).1)

theorem passes_clockAdvance (s t : State) (h : execClockAdvance s = .next t) : Passes s t := by
  refine .of_next ?_ h
  split
  · exact .of_ease (Directory.eases_advance none _ _)
  · exact .of_same rfl

theorem passes_popCompletion (s : State) : Passes s s.popCompletion :=
  .of_ease ((Directory.Eases.refl none _).of_same rfl rfl rfl (by simp [State.popCompletion]))

theorem passes_modAlerts (s : State) (f : Alerts → Alerts) : Passes s { s with directory := s.directory.modAlerts f } :=
  .of_ease ((Directory.Eases.refl none _).modAlerts f)

theorem passes_writeControl (s : State) (v : Word) : Passes s (s.writeControl v) := by
  unfold State.writeControl
  dsimp only
  split
  · exact .inr (blank_afterReset _)
  · exact .of_same rfl

theorem passes_submit (s : State) (v : Word) : Passes s (s.submit v) := by
  unfold State.submit
  split
  · exact .of_same rfl
  · exact passes_modAlerts s _

theorem passes_writeRegister (s : State) (r : Register) (v : Word) : Passes s (s.writeRegister r v) := by
  cases r with
  | control => exact passes_writeControl s v
  | alertStatus => exact passes_modAlerts s _
  | alertAgents => exact passes_modAlerts s _
  | command => exact passes_submit s v
  | completionPop => exact passes_popCompletion s
  | _ => exact .of_same rfl

theorem passes_agentReset (k : Agent) (s t : State) (h : execAgentReset k s = .next t) : Passes s t :=
  .of_next (.inl ((Phases.refl _ _).resetAgent Mode.settled_whole s.clock k)) h

theorem passes_requestAccepted (k : Agent) (message : BitVec 64) (s t : State) (h : execRequestAccepted k message s = .next t) :
    Passes s t := by
  refine .of_next ?_ h
  split <;> exact .of_same rfl

/-! ### All events -/

theorem passes_exec (i : Instr) (s t : State) (h : exec i s = .next t) : Passes s t := by
  have start := Phases.refl .whole s.directory
  have access : ∀ kind, Passes s (s.takeRequest (RequestKind.is (.access kind)) fun d k r => d.decideAccess s.clock k r kind) :=
    fun kind => passes_takeRequest s _ fun k r => start.decideAccess Mode.settled_whole s.clock k r kind
  have command : ∀ (kind : CommandKind) {run : Directory → Entry → Directory},
      (∀ e, s.directory.tagInUse e.tag = false → Phases .whole s.directory .command s.directory →
        Phases .whole s.directory .whole (run s.directory e)) → Passes s (s.takeCommand kind run) := passes_takeCommand s
  cases i with
  | requestAccepted k message => exact passes_requestAccepted k message s t h
  | fetch => exact (access .fetch).of_next h
  | share => exact (access .share).of_next h
  | claim => exact (access .claim).of_next h
  | store => exact (access .store).of_next h
  | release =>
    exact (passes_takeRequest s _ fun k r => start.decideReleaseRequest Mode.settled_whole s.clock k r).of_next h
  | pin => exact (passes_takeRequest s _ fun k r => start.decideOther k r fun i w hw _ => start.decidePin s.clock k _ hw).of_next h
  | unpin =>
    exact (passes_takeRequest s _ fun k r => start.decideOther k r fun i w hw _ =>
      start.decideUnpin (Mode.settled_whole i) s.clock k _ hw).of_next h
  | withdraw =>
    exact (passes_takeRequest s _ fun k r => start.decideOther k r fun i w _ hk =>
      start.decideWithdraw Mode.settled_whole s.clock k _ hk).of_next h
  | badRequest => exact (passes_takeRequest s _ fun _ _ => start).of_next h
  | verdictReturned k => exact passes_verdictReturned k s t h
  | noticeTaken k => exact passes_noticeTaken k s t h
  | recallDeadline i k => exact passes_recallDeadline i k s t h
  | reservationLapse i => exact passes_reservationLapse i s t h
  | idleDeadline i => exact passes_idleDeadline i s t h
  | clockAdvance => exact passes_clockAdvance s t h
  | openWindow => exact (command .openWindow fun e _ g => g.openWindow s.clock e).of_next h
  | query => exact (command .query fun e _ g => g.query e).of_next h
  | queryAddr => exact (command .queryAddr fun e _ g => g.queryAddr e).of_next h
  | revise => exact (command .revise fun e fresh g => g.revise s.clock fresh).of_next h
  | retire => exact (command .retire fun e fresh g => g.retire s.clock fresh).of_next h
  | watch => exact (command .watch fun e fresh g => g.startWatch fresh).of_next h
  | abort => exact (command .abort fun e _ g => g.abort s.clock e).of_next h
  | agentAdmit => exact (command .agentAdmit fun e _ g => g.admitAgent e).of_next h
  | agentSet => exact (command .agentSet fun e _ g => g.setSettings e).of_next h
  | agentQuery => exact (command .agentQuery fun e _ g => g.queryAgent e).of_next h
  | agentDetach => exact (command .agentDetach fun e fresh g => g.detachAgent s.clock fresh).of_next h
  | agentFence => exact (command .agentFence fun e _ g => g.fenceAgent s.clock e).of_next h
  | unknownCommand => exact (passes_takeEntry s _ fun e g => g.reply e _ _).of_next h
  | completionPop _ => exact (passes_popCompletion s).of_next h
  | clockResolutionSet r => exact Passes.of_next (x := s.setResolution r) (.of_same rfl) h
  | directoryReset _ => exact Passes.of_next (.inr (blank_afterReset _)) h
  | intEnableWrite v => exact Passes.of_next (x := s.setEnables v) (.of_same rfl) h
  | alertStatusClear _ => exact (passes_modAlerts s _).of_next h
  | alertAgentsClear _ => exact (passes_modAlerts s _).of_next h
  | registerWrite index value => exact (passes_writeRegister s _ value).of_next h
  | agentReset k => exact passes_agentReset k s t h
  | powerOn => exact Passes.of_next (.inr (blank_powerOn s)) h

theorem passes_step {s t : State} (h : step s = .next t) : Passes s t := by
  unfold step at h
  split at h
  · cases h
    exact .of_same rfl
  · next c rest _ => exact passes_exec c { s with pending := rest } t h

end Sys2Proof.Machine
end

section
/-! SUPPORT. Laws of single windows under the phases of an event: one rule per kind of update. First of them, that the optional parts of
a window follow its causes (R10, R120, R134). -/

namespace Sys2Proof.Machine

open Sys2Proof.Safety

/-- A law of every window, which may speak of its slot. -/
def EverySlot (law : SlotId → Window → Prop) (d : Directory) : Prop := ∀ i w, d.window i = some w → law i w

/-- Agent `k` struck from a window and from its recall. -/
def Window.strike (w : Window) (k : Agent) : Window :=
  ((((w.setHolding k .none).setPins k 0).unlist k).unreserve k).modContext (·.strike k)

theorem window_strike (d : Directory) (k : Agent) (i j : SlotId) :
    (d.strike k i).window j = if j = i then (d.window j).map (·.strike k) else d.window j := by
  unfold Directory.strike Directory.unlist
  by_cases h : j = i
  · subst h
    simp only [window_modContext, window_modWindow, window_setPins, window_setHolding, if_true, Option.map_map]
    rfl
  · simp [h]

/-- A window whose pending revision is applied (R127). -/
def Window.applied (w : Window) (p : PendingRevision) : Window :=
  { w.modContext (fun c => { c with revision := false }) with fields := p.fields, revision := none }

theorem applyRevision_none {d : Directory} {i : SlotId} {w : Window} (hw : d.window i = some w) (hr : w.revision = none) :
    d.applyRevision i = d := by
  unfold Directory.applyRevision
  rw [hw, Option.bind_some, hr]

theorem applyRevision_some {d : Directory} {i : SlotId} {w : Window} {p : PendingRevision} (hw : d.window i = some w)
    (hr : w.revision = some p) : ∃ r : Record, r.tag = p.tag ∧ d.applyRevision i = (withWindow d i (w.applied p)).finish r := by
  unfold Directory.applyRevision
  rw [hw, Option.bind_some, hr]
  dsimp only
  rw [modWindow_eq_withWindow _ hw]
  exact ⟨_, rfl, rfl⟩

/-- The table when a retirement completes, up to its watch and its record (R137, step 1). -/
def Directory.retirementQuiet (d : Directory) (i : SlotId) : Directory :=
  (d.modWindow i fun w => { w with context := none }).withdrawAll i

theorem retirementQuiet_eases (d : Directory) (i : SlotId) (o : Option SlotId) :
    (d.modWindow i fun w => { w with context := none }).Eases o (d.retirementQuiet i) := (Directory.Eases.refl o _).withdrawAll i

/-- A retirement that completes: the watch ends, the slot is free, and the RETIRE has its record. -/
theorem completeRetirement_eq {d : Directory} {i : SlotId} {w : Window} (hw : d.window i = some w) :
    (w.retireTag = none ∧ d.completeRetirement i = ((d.retirementQuiet i).endWatch i).freeSlot i) ∨
      ∃ r : Record, w.retireTag = some r.tag ∧
        d.completeRetirement i = (((d.retirementQuiet i).endWatch i).freeSlot i).finish r := by
  unfold Directory.completeRetirement Directory.retirementQuiet
  rw [hw, Option.bind_some]
  dsimp only
  cases w.retireTag with
  | none => exact .inl ⟨rfl, rfl⟩
  | some t => exact .inr ⟨Record.counted t .retire .done (d.handleWord i) (d.forcedWord i), rfl, rfl⟩

theorem window_endWatch_other {d : Directory} {i j : SlotId} (h : j ≠ i) : (d.endWatch i).window j = d.window j := by
  obtain e | ⟨r, e⟩ := d.endWatch_eq i
  · rw [e]
  · rw [e]; simp [h]

theorem window_completeRetirement {d : Directory} {i : SlotId} {w : Window} (hw : d.window i = some w) (j : SlotId) :
    (d.completeRetirement i).window j = if j = i then none else (d.retirementQuiet i).window j := by
  have freed : (((d.retirementQuiet i).endWatch i).freeSlot i).window j =
      if j = i then none else (d.retirementQuiet i).window j := by
    rw [window_freeSlot]
    split
    · rfl
    · next h => exact window_endWatch_other h
  obtain ⟨_, e⟩ | ⟨r, _, e⟩ := completeRetirement_eq hw
  · rw [e]; exact freed
  · rw [e, window_finish]; exact freed

/-! ### One rule per update -/

section
variable {P Q : SlotId → Window → Prop} {d : Directory} {i : SlotId}

theorem EverySlot.mono (h : EverySlot P d) (g : ∀ j w, d.window j = some w → P j w → Q j w) : EverySlot Q d :=
  fun j w hw => g j w hw (h j w hw)

theorem EverySlot.congr {e : Directory} (h : EverySlot P d) (hw : ∀ j, e.window j = d.window j) : EverySlot P e :=
  fun j w hj => h j w (hw j ▸ hj)

/-- One window changes, or goes. -/
theorem EverySlot.change {e : Directory} (h : EverySlot P d) (others : ∀ j, j ≠ i → e.window j = d.window j)
    (off : ∀ j, j ≠ i → ∀ w, P j w → Q j w) (here : ∀ w, e.window i = some w → Q i w) : EverySlot Q e := fun j w hw => by
  by_cases hj : j = i
  · subst hj
    exact here w hw
  · exact off j hj w (h j w (others j hj ▸ hw))

theorem EverySlot.modWindow (h : EverySlot P d) (off : ∀ j, j ≠ i → ∀ w, P j w → Q j w) {f : Window → Window}
    (here : ∀ w, d.window i = some w → P i w → Q i (f w)) : EverySlot Q (d.modWindow i f) := by
  refine h.change (fun j hj => by simp [hj]) off fun w hw => ?_
  rw [window_modWindow, if_pos rfl] at hw
  obtain ⟨v, hv, rfl⟩ := Option.map_eq_some_iff.1 hw
  exact here v hv (h i v hv)

theorem EverySlot.setHolding (h : EverySlot P d) {k : Agent} {x : Holding}
    (here : ∀ w, d.window i = some w → P i w → P i (w.setHolding k x)) : EverySlot P (d.setHolding i k x) := by
  refine h.change (i := i) (fun j hj => by simp [hj]) (fun _ _ _ => id) fun w hw => ?_
  rw [window_setHolding, if_pos rfl] at hw
  obtain ⟨v, hv, rfl⟩ := Option.map_eq_some_iff.1 hw
  exact here v hv (h i v hv)

theorem EverySlot.strike (h : EverySlot P d) {k : Agent} (off : ∀ j, j ≠ i → ∀ w, P j w → Q j w)
    (here : ∀ w, d.window i = some w → P i w → Q i (w.strike k)) : EverySlot Q (d.strike k i) := by
  refine h.change (fun j hj => by simp [window_strike, hj]) off fun w hw => ?_
  rw [window_strike, if_pos rfl] at hw
  obtain ⟨v, hv, rfl⟩ := Option.map_eq_some_iff.1 hw
  exact here v hv (h i v hv)

theorem EverySlot.withWindow (h : EverySlot P d) {w : Window} (off : ∀ j, j ≠ i → ∀ w, P j w → Q j w) (here : Q i w) :
    EverySlot Q (withWindow d i w) := by
  refine h.change (fun j hj => by simp [hj]) off fun v hv => ?_
  rw [window_withWindow, if_pos rfl] at hv
  cases hv
  exact here

/-- A law that no operation of a running recall breaks. -/
theorem EverySlot.eases {o : Option SlotId} {e : Directory} (h : EverySlot P d) (g : d.Eases o e)
    (keep : ∀ j v w, v.Eases w → P j v → P j w) : EverySlot P e := fun j w hw => by
  obtain ⟨v, hv, he⟩ := g.window_some hw
  exact keep j v w he (h j v hv)

theorem EverySlot.applyRevision {w : Window} (h : EverySlot P d) (hw : d.window i = some w)
    (off : ∀ j, j ≠ i → ∀ w, P j w → Q j w) (stays : w.revision = none → P i w → Q i w)
    (here : ∀ p, w.revision = some p → P i w → Q i (w.applied p)) : EverySlot Q (d.applyRevision i) := by
  cases hr : w.revision with
  | none =>
    rw [applyRevision_none hw hr]
    refine h.change (fun _ _ => rfl) off fun v hv => ?_
    rw [hw] at hv
    cases hv
    exact stays hr (h i w hw)
  | some p =>
    obtain ⟨r, _, e⟩ := applyRevision_some hw hr
    rw [e]
    exact (h.withWindow off (here p hr (h i w hw))).congr fun _ => rfl

theorem EverySlot.completeRetirement {w : Window} (h : EverySlot P d) (hw : d.window i = some w)
    (keep : ∀ j v w, v.Eases w → P j v → P j w) : EverySlot P (d.completeRetirement i) := by
  intro j v hv
  rw [window_completeRetirement hw] at hv
  split at hv
  · cases hv
  · next hj =>
    obtain ⟨u, hu, he⟩ := (retirementQuiet_eases d i none).window_some hv
    rw [window_modWindow, if_neg hj] at hu
    exact keep j u v he (h j u hu)

end

/-! ### Parts and causes -/

theorem any_modContext {w : Window} {f : RecallContext → RecallContext} {g : RecallContext → Bool} (h : ∀ c, g (f c) = g c) :
    (w.modContext f).context.any g = w.context.any g := by
  cases hc : w.context <;> simp [Window.modContext, hc, h]

theorem RecallContext.flags_dismiss (c : RecallContext) (k : Agent) (b : Bool) :
    (c.dismiss k b).revision = c.revision ∧ (c.dismiss k b).retire = c.retire := by
  cases b <;> exact ⟨rfl, rfl⟩

theorem parts_started {cause : Cause} (free : cause.free) (b : Bool) :
    ((RecallContext.blank b).addCause cause).revision = false ∧ ((RecallContext.blank b).addCause cause).retire = false := by
  cases cause with
  | revision | retire => exact free.elim
  | _ => exact ⟨rfl, rfl⟩

end Sys2Proof.Machine

namespace Sys2Proof.Safety

open Sys2Proof.Machine

theorem parts_of_none {w : Window} (hc : w.context = none) (hr : w.revision = none) (ht : w.retireTag = none) :
    PartsFollowCauses w := by
  simp [PartsFollowCauses, hc, hr, ht]

theorem PartsFollowCauses.revision_none {w : Window} (h : PartsFollowCauses w)
    (g : w.context.any (·.revision) = false) : w.revision = none :=
  Option.not_isSome_iff_eq_none.1 (by rw [h.1, g]; exact Bool.false_ne_true)

theorem PartsFollowCauses.retireTag_none {w : Window} (h : PartsFollowCauses w)
    (g : w.context.any (·.retire) = false) : w.retireTag = none :=
  Option.not_isSome_iff_eq_none.1 (by rw [h.2.1, g]; exact Bool.false_ne_true)

theorem PartsFollowCauses.eases {v w : Window} (e : v.Eases w) (h : PartsFollowCauses v) : PartsFollowCauses w := by
  obtain ⟨h1, h2, h3, h4⟩ := h
  refine ⟨?_, ?_, ?_, fun ht => List.eq_nil_iff_forall_not_mem.2 fun x hx => ?_⟩
  · rw [e.revision, e.revising, h1]
  · rw [e.retireTag, e.retiring, h2]
  · rw [e.revision, e.retireTag]
    exact h3
  · rw [e.retireTag] at ht
    have := e.waiters x hx
    simp [h4 ht] at this

/-- Parts, flags and an empty list stay: so does the law. -/
theorem PartsFollowCauses.congr {v w : Window} (h : PartsFollowCauses v) (hr : w.revision = v.revision)
    (ht : w.retireTag = v.retireTag) (h1 : w.context.any (·.revision) = v.context.any (·.revision))
    (h2 : w.context.any (·.retire) = v.context.any (·.retire)) (hl : v.waiters = [] → w.waiters = []) : PartsFollowCauses w := by
  obtain ⟨g1, g2, g3, g4⟩ := h
  refine ⟨by rw [hr, h1, g1], by rw [ht, h2, g2], by rw [hr, ht]; exact g3, fun x => hl (g4 (ht ▸ x))⟩

theorem PartsFollowCauses.modContext {w : Window} (h : PartsFollowCauses w) {f : RecallContext → RecallContext}
    (h1 : ∀ c, (f c).revision = c.revision) (h2 : ∀ c, (f c).retire = c.retire) : PartsFollowCauses (w.modContext f) :=
  h.congr rfl rfl (any_modContext h1) (any_modContext h2) id

theorem PartsFollowCauses.strike {w : Window} (h : PartsFollowCauses w) (k : Agent) : PartsFollowCauses (w.strike k) := by
  have left : PartsFollowCauses ((((w.setHolding k .none).setPins k 0).unlist k).unreserve k) :=
    h.congr rfl rfl rfl rfl fun e => by simp [Window.unreserve, Window.unlist, Window.setPins, Window.setHolding, e]
  exact left.modContext (fun _ => rfl) fun _ => rfl

theorem PartsFollowCauses.applied {w : Window} {c : RecallContext} (h : PartsFollowCauses w) (hc : w.context = some c)
    (hr : c.retire = false) (p : PendingRevision) : PartsFollowCauses (w.applied p) := by
  have tag : w.retireTag = none := h.retireTag_none (by simp [hc, hr])
  simp [PartsFollowCauses, Window.applied, Window.modContext, hc, hr, tag]

theorem PartsFollowCauses.reviseStarted {w : Window} (h : PartsFollowCauses w) (p : PendingRevision)
    (calm : w.context.any (·.retire) = false) : PartsFollowCauses (w.reviseStarted p) := by
  have tag := h.retireTag_none calm
  have retire : ((w.context.getD (.blank p.force)).addCause .revision).retire = false := by
    cases hc : w.context with
    | none => rfl
    | some c => simpa [hc, RecallContext.addCause] using calm
  exact ⟨rfl, by simp [Window.reviseStarted, tag, retire], fun _ => tag, fun x => by simp [Window.reviseStarted, tag] at x⟩

/-- RETIRE as a cause leaves no pending revision, nor REVISION as a cause (R133). -/
theorem PartsFollowCauses.superseded {w : Window} (h : PartsFollowCauses w) (force : Bool) :
    (w.superseded force).revision = none ∧ (w.superseded force).context.any (·.revision) = false := by
  unfold Window.superseded
  split
  · refine ⟨rfl, ?_⟩
    cases w.context <;> simp [Window.modContext]
  · next hr => exact ⟨Option.not_isSome_iff_eq_none.1 hr, by rw [← h.1]; simpa using hr⟩

theorem PartsFollowCauses.retireStarted {w : Window} (h : PartsFollowCauses w) (t : Tag) (force : Bool) :
    PartsFollowCauses (w.retireStarted t force) := by
  obtain ⟨rev, flag⟩ := h.superseded force
  have revision : (((w.superseded force).context.getD (.blank force)).addCause .retire).revision = false := by
    cases hc : (w.superseded force).context with
    | none => rfl
    | some c => simpa [hc, RecallContext.addCause] using flag
  exact ⟨by simp [Window.retireStarted, Window.emptied, rev, revision], rfl,
    fun x => by simp [Window.retireStarted, Window.emptied, rev] at x, fun _ => rfl⟩

end Sys2Proof.Safety

namespace Sys2Proof.Machine

open Sys2Proof.Safety

theorem parts_work {m n : Mode} {d e : Directory} (h : Work m d n e) (g : EveryWindow PartsFollowCauses d) :
    EveryWindow PartsFollowCauses e := by
  have g : EverySlot (fun _ => PartsFollowCauses) d := g
  cases h with
  | ease _ he => exact g.eases he fun _ _ _ e => PartsFollowCauses.eases e
  | create force free opened =>
    refine g.modWindow (fun _ _ _ => id) fun w hw hp => ?_
    have hc := opened w hw
    obtain ⟨hrev, hret⟩ := parts_started free force
    have rev := hp.revision_none (by simp [hc])
    have tag := hp.retireTag_none (by simp [hc])
    simp [PartsFollowCauses, hrev, hret, rev, tag]
  | strike k i => exact g.strike (fun _ _ _ => id) fun w _ hp => hp.strike k
  | dismiss i =>
    exact g.modWindow (fun _ _ _ => id) fun w _ hp =>
      hp.modContext (fun c => (c.flags_dismiss _ _).1) fun c => (c.flags_dismiss _ _).2
  | drop i ends =>
    refine g.modWindow (fun _ _ _ => id) fun w hw hp => ?_
    cases hc : w.context with
    | none => exact parts_of_none rfl (hp.revision_none (by simp [hc])) (hp.retireTag_none (by simp [hc]))
    | some c =>
      obtain ⟨hret, hrev⟩ := ends w c hw hc
      exact parts_of_none rfl (hrev.elim (fun x => hp.revision_none (by simp [hc, x])) id) (hp.retireTag_none (by simp [hc, hret]))
  | apply hw hc hrev hret =>
    refine g.applyRevision hw (fun _ _ _ => id) (fun _ => id) fun p _ hp => hp.applied hc hret p
  | rearm i now => exact g.modWindow (fun _ _ _ => id) fun w _ hp => hp.congr rfl rfl rfl rfl id
  | retire hw => exact g.completeRetirement hw fun _ _ _ e => PartsFollowCauses.eases e
  | relax => exact g

theorem parts_phase {m n : Mode} {d e : Directory} (h : Phase m d n e) (g : EveryWindow PartsFollowCauses d) :
    EveryWindow PartsFollowCauses e := by
  have g : EverySlot (fun _ => PartsFollowCauses) d := g
  cases h with
  | work h => exact parts_work h g
  | enlist kind _ stays =>
    refine g.modWindow (fun _ _ _ => id) fun w hw hp => ?_
    have tag := hp.retireTag_none (stays w hw)
    have kept : PartsFollowCauses { w with waiters := [] } := hp.congr rfl rfl rfl rfl fun _ => rfl
    unfold Window.enlist
    split <;>
    · obtain ⟨h1, h2, h3, _⟩ := kept
      exact ⟨h1, h2, h3, fun x => by simp [tag] at x⟩
  | raise hw => exact g.setHolding fun w _ hp => hp.congr rfl rfl rfl rfl id
  | @endWatch _ _ i _ _ =>
    have ended := g.modWindow (i := i) (Q := fun _ => PartsFollowCauses) (f := fun w => { w with watch := none }) (fun _ _ _ => id)
      fun w _ hp => hp.congr rfl rfl rfl rfl id
    exact ended.congr fun _ => rfl
  | @watch _ i _ x _ _ _ =>
    have watched := g.modWindow (i := i) (Q := fun _ => PartsFollowCauses) (f := fun w => { w with watch := some x }) (fun _ _ _ => id)
      fun w _ hp => hp.congr rfl rfl rfl rfl id
    exact watched.congr fun _ => rfl
  | openWindow f now => exact g.withWindow (fun _ _ _ => id) (parts_of_none rfl rfl rfl)
  | reviseNow f => exact g.modWindow (fun _ _ _ => id) fun w _ hp => hp.congr rfl rfl rfl rfl id
  | revise hw calm _ _ eased =>
    refine EverySlot.eases ?_ eased fun _ _ _ e => PartsFollowCauses.eases e
    rw [reviseStarted_eq _ hw]
    exact g.withWindow (fun _ _ _ => id) ((g _ _ hw).reviseStarted _ calm.1)
  | retire hw _ _ eased =>
    refine EverySlot.eases ?_ eased fun _ _ _ e => PartsFollowCauses.eases e
    obtain ⟨d₁, h₁, e₁⟩ := retireStarted_eq _ _ hw
    have g₁ : EverySlot (fun _ => PartsFollowCauses) d₁ := by
      obtain ⟨_, rfl⟩ | ⟨_, _, _, _, rfl⟩ := h₁
      · exact g
      · exact g.congr fun _ => rfl
    rw [e₁]
    exact g₁.withWindow (fun _ _ _ => id) ((g _ _ hw).retireStarted _ _)
  | abortRevision =>
    refine g.modWindow (fun _ _ _ => id) fun w _ hp => ?_
    obtain ⟨_, h2, _, h4⟩ := hp
    cases hc : w.context with
    | none => simp_all [PartsFollowCauses, Window.modContext]
    | some c => simp_all [PartsFollowCauses, Window.modContext]
  | endDetach k x =>
    unfold Directory.endDetach
    split
    · exact g
    · exact g.congr fun _ => rfl
  | _ => exact g.congr fun _ => rfl

/-- Every event keeps the parts of windows with their causes. -/
theorem parts_step {s t : State} (h : step s = .next t) (g : EveryWindow PartsFollowCauses s.directory) :
    EveryWindow PartsFollowCauses t.directory := by
  rcases passes_step h with p | b
  · exact p.keeps (I := fun _ => EveryWindow PartsFollowCauses) parts_phase g
  · exact fun i w hw => by cases (b.windows i).symm.trans hw

end Sys2Proof.Machine
end

section
/-! SUPPORT. The ranges of windows (R14): what a window claims, who may claim more, and the overlap check that lets it. -/

namespace Sys2Proof.Machine

open Sys2Proof.Safety

/-- The window stands for the range of this field set, or its pending revision does. -/
def Window.Claims (w : Window) (f : FieldSet) : Prop := w.fields = f ∨ ∃ p, w.revision = some p ∧ p.fields = f

theorem meets_eq_false_iff_claims {w : Window} {f : FieldSet} : w.meets f = false ↔ ∀ g, w.Claims g → g.overlaps f = false := by
  simp only [Window.meets, Bool.or_eq_false_iff, Option.any_eq_false, Window.Claims]
  constructor
  · rintro ⟨h, hp⟩ g (rfl | ⟨p, e, rfl⟩)
    · exact h
    · simpa using hp p e
  · exact fun h => ⟨h _ (.inl rfl), fun p e => by simpa using h _ (.inr ⟨p, e, rfl⟩)⟩

/-- No two windows claim ranges that overlap. -/
theorem rangesApart_iff {d : Directory} :
    RangesApart d ↔ ∀ i j, i ≠ j → ∀ v w, d.window i = some v → d.window j = some w → ∀ f g, v.Claims f → w.Claims g →
      f.overlaps g = false := by
  constructor
  · intro h i j hij v w hv hw f g hf hg
    obtain ⟨h1, h2⟩ := h i j hij v hv w hw
    rcases hg with rfl | ⟨p, hp, rfl⟩
    · exact meets_eq_false_iff_claims.1 h1 f hf
    · exact meets_eq_false_iff_claims.1 (h2 p hp) f hf
  · intro h i j hij v hv w hw
    exact ⟨meets_eq_false_iff_claims.2 fun f hf => h i j hij v w hv hw f _ hf (.inl rfl),
      fun p hp => meets_eq_false_iff_claims.2 fun f hf => h i j hij v w hv hw f _ hf (.inr ⟨p, hp, rfl⟩)⟩

/-- A law of windows that speaks of their claims alone, and allows fewer of them. -/
def Narrow (P : SlotId → Window → Prop) : Prop := ∀ j v w, (∀ f, w.Claims f → v.Claims f) → P j v → P j w

/-- The slot's window claims at most what it claimed in `d`, and the range of `x` for the one slot it names. -/
def ClaimedFrom (d : Directory) (x : Option (SlotId × FieldSet)) (j : SlotId) (w : Window) : Prop :=
  ∀ f, w.Claims f → (∃ v, d.window j = some v ∧ v.Claims f) ∨ x = some (j, f)

theorem narrow_claimedFrom (d : Directory) (x : Option (SlotId × FieldSet)) : Narrow (ClaimedFrom d x) :=
  fun _ _ _ h g f hf => g f (h f hf)

/-- Windows that claim no more than before keep their ranges apart. -/
theorem rangesApart_of_claimed {d e : Directory} (h : RangesApart d) {x : Option (SlotId × FieldSet)}
    (apart : ∀ i f, x = some (i, f) → d.overlapFound (some i) f = false) (g : EverySlot (ClaimedFrom d x) e) :
    RangesApart e := by
  have clear : ∀ {i f j v g}, x = some (i, f) → j ≠ i → d.window j = some v → v.Claims g → g.overlaps f = false :=
    fun hx hj hv hg => meets_eq_false_iff_claims.1
      (overlapFound_eq_false_iff.1 (apart _ _ hx) _ (fun e => hj (Option.some.inj e).symm) _ hv) _ hg
  refine rangesApart_iff.2 fun i j hij v w hv hw f f' hf hf' => ?_
  rcases g i v hv f hf with ⟨v₀, hv₀, hf⟩ | hx <;> rcases g j w hw f' hf' with ⟨w₀, hw₀, hf'⟩ | hx'
  · exact rangesApart_iff.1 h i j hij v₀ w₀ hv₀ hw₀ f f' hf hf'
  · exact clear hx' hij hv₀ hf
  · exact (overlaps_comm f f').trans (clear hx hij.symm hw₀ hf')
  · rw [hx] at hx'
    cases hx'
    exact absurd rfl hij

theorem Window.Eases.claims {v w : Window} (h : v.Eases w) (f : FieldSet) (g : w.Claims f) : v.Claims f := by
  unfold Window.Claims at *
  rwa [h.fields, h.revision] at g

theorem claims_superseded (w : Window) (force : Bool) (f : FieldSet) (h : (w.superseded force).Claims f) : w.Claims f := by
  unfold Window.superseded at h
  split at h
  · exact h.imp_right fun ⟨_, e, _⟩ => nomatch e
  · exact h

/-- The Recall Controller claims nothing: a revision that is applied was claimed while it waited. -/
theorem claims_work {P : SlotId → Window → Prop} (hP : Narrow P) {m n : Mode} {d e : Directory} (h : Work m d n e)
    (g : EverySlot P d) : EverySlot P e := by
  have ease : ∀ j v w, v.Eases w → P j v → P j w := fun j v w he => hP j v w he.claims
  cases h with
  | ease _ he => exact g.eases he ease
  | create => exact g.modWindow (fun _ _ _ => id) fun w _ => hP _ _ _ fun _ => id
  | strike k i => exact g.strike (fun _ _ _ => id) fun w _ => hP _ _ _ fun _ => id
  | dismiss i => exact g.modWindow (fun _ _ _ => id) fun w _ => hP _ _ _ fun _ => id
  | drop i => exact g.modWindow (fun _ _ _ => id) fun w _ => hP _ _ _ fun _ => id
  | apply hw =>
    exact g.applyRevision hw (fun _ _ _ => id) (fun _ => id) fun p hp => hP _ _ _ fun f hf =>
      hf.elim (fun e => .inr ⟨p, hp, e⟩) fun ⟨_, e, _⟩ => nomatch e
  | rearm i now => exact g.modWindow (fun _ _ _ => id) fun w _ => hP _ _ _ fun _ => id
  | retire hw => exact g.completeRetirement hw ease
  | relax => exact g

/-- The range that a phase claims, for the slot it names. -/
theorem claims_phase {m n : Mode} {d e : Directory} (h : Phase m d n e) :
    ∃ x : Option (SlotId × FieldSet), (∀ i f, x = some (i, f) → d.overlapFound (some i) f = false) ∧
      EverySlot (ClaimedFrom d x) e := by
  have old : ∀ x, EverySlot (ClaimedFrom d x) d := fun _ j w hw f hf => .inl ⟨w, hw, hf⟩
  have quiet : EverySlot (ClaimedFrom d none) e → ∃ x : Option (SlotId × FieldSet),
      (∀ i f, x = some (i, f) → d.overlapFound (some i) f = false) ∧ EverySlot (ClaimedFrom d x) e :=
    fun g => ⟨none, nofun, g⟩
  have found : ∀ i f, d.overlapFound (some i) f = false → EverySlot (ClaimedFrom d (some (i, f))) e →
      ∃ x : Option (SlotId × FieldSet), (∀ i f, x = some (i, f) → d.overlapFound (some i) f = false) ∧
        EverySlot (ClaimedFrom d x) e := fun i f ho g => ⟨some (i, f), fun _ _ hx => by cases hx; exact ho, g⟩
  have narrow := narrow_claimedFrom d
  have same : (∀ j, e.window j = d.window j) → EverySlot (ClaimedFrom d none) e := fun hw => (old none).congr hw
  cases h with
  | work h => exact quiet (claims_work (narrow none) h (old none))
  | enlist kind =>
    refine quiet ((old none).modWindow (fun _ _ _ => id) fun w _ => narrow none _ _ _ fun f hf => ?_)
    unfold Window.enlist at hf
    split at hf <;> exact hf
  | raise => exact quiet ((old none).setHolding fun w _ => narrow none _ _ _ fun _ => id)
  | @endWatch _ _ i _ _ =>
    have ended := (old none).modWindow (i := i) (Q := ClaimedFrom d none) (f := fun w => { w with watch := none })
      (fun _ _ _ => id) fun w _ => narrow none _ _ _ fun _ => id
    exact quiet (ended.congr fun _ => rfl)
  | @watch _ i _ x _ _ _ =>
    have watched := (old none).modWindow (i := i) (Q := ClaimedFrom d none) (f := fun w => { w with watch := some x })
      (fun _ _ _ => id) fun w _ => narrow none _ _ _ fun _ => id
    exact quiet (watched.congr fun _ => rfl)
  | @openWindow _ _ i f now _ apart =>
    refine found i f (overlapFound_eq_false_iff.2 fun j _ => overlapFound_eq_false_iff.1 apart j nofun) ?_
    refine (old _).withWindow (fun _ _ _ => id) fun g hg => .inr ?_
    rcases hg with rfl | ⟨_, e, _⟩
    · rfl
    · cases e
  | @reviseNow _ _ i w f hw _ _ apart =>
    refine found i f apart ((old _).modWindow (fun _ _ _ => id) fun v hv _ g hg => ?_)
    rcases hg with rfl | hp
    · exact .inr rfl
    · exact .inl ⟨v, hv, .inr hp⟩
  | @revise _ _ i w p hw _ apart _ eased =>
    refine found i p.fields apart ((?_ : EverySlot _ (d.reviseStarted i p)).eases eased fun j v w he => narrow _ j v w he.claims)
    rw [reviseStarted_eq p hw]
    refine (old _).withWindow (fun _ _ _ => id) fun g hg => ?_
    rcases hg with rfl | ⟨q, hq, rfl⟩
    · exact .inl ⟨w, hw, .inl rfl⟩
    · cases hq
      exact .inr rfl
  | @retire _ _ i w t force hw _ _ eased =>
    refine quiet ((?_ : EverySlot _ (d.retireStarted i t force)).eases eased fun j v w he => narrow _ j v w he.claims)
    obtain ⟨d₁, h₁, e₁⟩ := retireStarted_eq t force hw
    have g₁ : EverySlot (ClaimedFrom d none) d₁ := by
      obtain ⟨_, rfl⟩ | ⟨_, _, _, _, rfl⟩ := h₁
      · exact old none
      · exact (old none).congr fun _ => rfl
    rw [e₁]
    exact g₁.withWindow (fun _ _ _ => id) fun g hg => .inl ⟨w, hw, claims_superseded w force g hg⟩
  | abortRevision =>
    exact quiet ((old none).modWindow (fun _ _ _ => id) fun w _ => narrow none _ _ _ fun f hf =>
      hf.elim .inl fun ⟨_, e, _⟩ => nomatch e)
  | endDetach k x =>
    refine quiet (same fun j => ?_)
    unfold Directory.endDetach
    split <;> rfl
  | _ => exact quiet (same fun _ => rfl)

/-- Settles O55: between two events no window claims a range that an overlap check has not found clear. -/
theorem stepKeepsRangesApart : Obligations.StepKeepsRangesApart := by
  intro s t h hstep
  rcases passes_step hstep with p | b
  · refine p.keeps (I := fun _ => RangesApart) (fun phase g => ?_) h
    obtain ⟨x, apart, claimed⟩ := claims_phase phase
    exact rangesApart_of_claimed g apart claimed
  · intro i _ _ v hv
    cases (b.windows i).symm.trans hv

end Sys2Proof.Machine
end

section
/-! SUPPORT. The tags that records keep (R180), under the phases of an event: an update leaves every tag, or every tag but one. -/

namespace Sys2Proof.Machine

open Sys2Proof.Safety

/-- From `d` to `e` every record keeps its tag, or keeps none as before, but for the record of work `x`, if one is named. -/
def TagsStay (x : Option ParkedWork) (d e : Directory) : Prop := ∀ y, x ≠ some y → keptTag e y = keptTag d y

theorem TagsStay.refl (x : Option ParkedWork) (d : Directory) : TagsStay x d d := fun _ _ => rfl

theorem TagsStay.trans {x : Option ParkedWork} {a b c : Directory} (h : TagsStay x a b) (g : TagsStay x b c) : TagsStay x a c :=
  fun y hy => (g y hy).trans (h y hy)

theorem TagsStay.mono {d e : Directory} (h : TagsStay none d e) (x : Option ParkedWork) : TagsStay x d e :=
  fun y _ => h y nofun

/-- Windows and agents as they were. -/
theorem tagsStay_of_same {d e : Directory} (hw : ∀ i, e.window i = d.window i) (ha : ∀ k, e.agent k = d.agent k) :
    TagsStay none d e := fun y _ => by
  cases y with
  | detach k => rw [keptTag_detach, keptTag_detach, ha]
  | revise i => rw [keptTag_revise, keptTag_revise, hw]
  | retire i => rw [keptTag_retire, keptTag_retire, hw]
  | watch i => rw [keptTag_watch, keptTag_watch, hw]

/-- One slot changes: the tags of the parts that stay, stay. -/
theorem tagsStay_slot {x : Option ParkedWork} {d e : Directory} {i : SlotId} (others : ∀ j, j ≠ i → e.window j = d.window j)
    (agents : ∀ k, (e.agent k).detach = (d.agent k).detach)
    (revision : x ≠ some (.revise i) → (e.window i).bind (·.revision) = (d.window i).bind (·.revision))
    (retireTag : x ≠ some (.retire i) → (e.window i).bind (·.retireTag) = (d.window i).bind (·.retireTag))
    (watch : x ≠ some (.watch i) → (e.window i).bind (·.watch) = (d.window i).bind (·.watch)) : TagsStay x d e := fun y hy => by
  cases y with
  | detach k => rw [keptTag_detach, keptTag_detach, agents]
  | revise j =>
    rw [keptTag_revise, keptTag_revise]
    by_cases hj : j = i
    · subst hj; rw [revision hy]
    · rw [others j hj]
  | retire j =>
    rw [keptTag_retire, keptTag_retire]
    by_cases hj : j = i
    · subst hj; rw [retireTag hy]
    · rw [others j hj]
  | watch j =>
    rw [keptTag_watch, keptTag_watch]
    by_cases hj : j = i
    · subst hj; rw [watch hy]
    · rw [others j hj]

/-- One window is rewritten. -/
theorem tagsStay_modWindow {x : Option ParkedWork} {d : Directory} {i : SlotId} {f : Window → Window}
    (h : ∀ w, d.window i = some w → (x ≠ some (.revise i) → (f w).revision = w.revision) ∧
      (x ≠ some (.retire i) → (f w).retireTag = w.retireTag) ∧ (x ≠ some (.watch i) → (f w).watch = w.watch)) :
    TagsStay x d (d.modWindow i f) := by
  have part : ∀ {α : Type} (g : Window → Option α), (∀ w, d.window i = some w → g (f w) = g w) →
      ((d.modWindow i f).window i).bind g = (d.window i).bind g := fun g hg => by
    rw [window_modWindow, if_pos rfl]
    cases hw : d.window i with
    | none => rfl
    | some w => exact hg w hw
  exact tagsStay_slot (i := i) (fun j hj => by simp [hj]) (fun _ => rfl) (fun hx => part _ fun w hw => (h w hw).1 hx)
    (fun hx => part _ fun w hw => (h w hw).2.1 hx) fun hx => part _ fun w hw => (h w hw).2.2 hx

/-- One window is rewritten outside the parts that keep tags. -/
theorem tagsStay_modWindow_same (d : Directory) (i : SlotId) {f : Window → Window}
    (h : ∀ w, (f w).revision = w.revision ∧ (f w).retireTag = w.retireTag ∧ (f w).watch = w.watch) :
    TagsStay none d (d.modWindow i f) :=
  tagsStay_modWindow fun w _ => ⟨fun _ => (h w).1, fun _ => (h w).2.1, fun _ => (h w).2.2⟩

/-- One window is rewritten outside those parts, and agents keep their detach. -/
theorem tagsStay_map {d e : Directory} {i : SlotId} {f : Window → Window}
    (windows : ∀ j, e.window j = if j = i then (d.window j).map f else d.window j)
    (agents : ∀ k, (e.agent k).detach = (d.agent k).detach)
    (h : ∀ w, (f w).revision = w.revision ∧ (f w).retireTag = w.retireTag ∧ (f w).watch = w.watch) : TagsStay none d e := by
  have moved := tagsStay_modWindow_same d i h
  refine moved.trans (tagsStay_slot (i := i) (fun j _ => ?_) agents (fun _ => ?_) (fun _ => ?_) fun _ => ?_)
  all_goals rw [windows, window_modWindow]

theorem tagsStay_setHolding (d : Directory) (i : SlotId) (k : Agent) (h : Holding) : TagsStay none d (d.setHolding i k h) :=
  tagsStay_map (window_setHolding d i · k h) (fun j => by rw [agent_setHolding d i k j h]) fun _ => ⟨rfl, rfl, rfl⟩

theorem tagsStay_strike (d : Directory) (k : Agent) (i : SlotId) : TagsStay none d (d.strike k i) := by
  refine tagsStay_map (window_strike d k i) (fun j => ?_) fun _ => ⟨rfl, rfl, rfl⟩
  have same : (d.strike k i).agent j = (d.setHolding i k .none).agent j := rfl
  rw [same, agent_setHolding d i k j .none]

theorem Directory.Eases.tagsStay {o : Option SlotId} {d e : Directory} (h : d.Eases o e) : TagsStay none d e := fun y _ => by
  have part : ∀ {α : Type} (f : Window → Option α) (i : SlotId), (∀ v w : Window, v.Eases w → f w = f v) →
      (e.window i).bind f = (d.window i).bind f := fun f i hf => by
    cases hw : d.window i with
    | none => rw [h.window_none.2 hw]
    | some w =>
      obtain ⟨v, hv, he⟩ := h.window_some' hw
      rw [hv]
      exact hf w v he
  cases y with
  | detach k => exact h.detaches k
  | revise i => rw [keptTag_revise, keptTag_revise, part _ i fun _ _ he => he.revision]
  | retire i => exact part _ i fun _ _ he => he.retireTag
  | watch i => rw [keptTag_watch, keptTag_watch, part _ i fun _ _ he => he.watch]

/-- The works of a slot and of an agent whose record keeps no tag. -/
theorem keptTag_of_window {d : Directory} {i : SlotId} {w : Window} (hw : d.window i = some w) :
    keptTag d (.revise i) = w.revision.map (·.tag) ∧ keptTag d (.retire i) = w.retireTag ∧
      keptTag d (.watch i) = w.watch.map (·.tag) := by
  simp [keptTag_revise, keptTag_retire, keptTag_watch, hw]

end Sys2Proof.Machine
end

section
/-! SUPPORT. Parked commands and the records that keep their tags (R155, R177, R180). While an event runs, the standing records are kept
in a ledger: what is on the Parked List is in it, but for a command that is ending, and what is in it is on the list, but for the command
in flight. -/

namespace Sys2Proof.Machine

open Sys2Proof.Safety

/-- The ledger of the standing records: each with the tag it keeps and the work it belongs to. -/
structure Ledger (m : Mode) (d : Directory) (l : List Parked) : Prop where
  entry : ∀ p, p ∈ l ↔ keptTag d p.work = some p.tag
  once : (l.map (·.tag)).Nodup
  listed : ∀ p ∈ l, p ∈ d.parked ∨ m.flight p
  kept : ∀ q ∈ d.parked, q ∈ l ∨ m.ending q.tag
  parkedOnce : (d.parked.map (·.tag)).Nodup
  apart : ∀ p, m.flight p → ∀ q ∈ d.parked, q.work ≠ p.work
  standing : ∀ p ∈ l, ¬ m.ending p.tag
  bounded : l.length + d.completions.length + m.places ≤ 16

/-- The parts of a mode that the ledger speaks of. -/
structure Mode.SameCommand (m n : Mode) : Prop where
  places : n.places = m.places
  flight : n.flight = m.flight
  ending : n.ending = m.ending

theorem Work.sameCommand {m n : Mode} {d e : Directory} (h : Work m d n e) : m.SameCommand n ∧ n.departing = m.departing := by
  cases h with
  | strike k i frays => cases frays <;> exact ⟨⟨rfl, rfl, rfl⟩, rfl⟩
  | relax h => rw [← h.same]; exact ⟨⟨rfl, rfl, rfl⟩, rfl⟩
  | _ => exact ⟨⟨rfl, rfl, rfl⟩, rfl⟩

/-! ### The ledger -/

section
variable {m n : Mode} {d e : Directory} {l : List Parked}

theorem tag_injective (h : (l.map (·.tag)).Nodup) {p q : Parked} (hp : p ∈ l) (hq : q ∈ l) (e : p.tag = q.tag) : p = q :=
  List.inj_on_of_nodup_map h hp hq e

theorem Ledger.mode (h : Ledger m d l) (g : m.SameCommand n) : Ledger n d l := by
  obtain ⟨places, flight, ending⟩ := g
  exact { h with
    listed := by rw [flight]; exact h.listed
    kept := by rw [ending]; exact h.kept
    apart := by rw [flight]; exact h.apart
    standing := by rw [ending]; exact h.standing
    bounded := by rw [places]; exact h.bounded }

/-- No tag changes, and nothing is parked or recorded. -/
theorem Ledger.same (h : Ledger m d l) (tags : TagsStay none d e) (parked : e.parked = d.parked)
    (completions : e.completions.length ≤ d.completions.length) : Ledger m e l where
  entry p := by rw [tags p.work nofun]; exact h.entry p
  once := h.once
  listed := by rw [parked]; exact h.listed
  kept := by rw [parked]; exact h.kept
  parkedOnce := by rw [parked]; exact h.parkedOnce
  apart := by rw [parked]; exact h.apart
  standing := h.standing
  bounded := by have := h.bounded; omega

/-- The entry of a tag crossed out. -/
theorem length_filter_tag {t : Tag} {w : ParkedWork} (h : { tag := t, work := w } ∈ l) :
    (l.filter (·.tag != t)).length + 1 ≤ l.length :=
  List.length_filter_lt_length_iff_exists.2 ⟨_, h, by simp⟩

/-- With the record of work `x` gone, the ledger without its entry is the ledger. -/
theorem Ledger.entry_filter (h : Ledger m d l) {t : Tag} {x : ParkedWork} (tag : keptTag d x = some t)
    (gone : keptTag e x = none) (tags : TagsStay (some x) d e) (p : Parked) :
    p ∈ l.filter (·.tag != t) ↔ keptTag e p.work = some p.tag := by
  have entry := (h.entry ⟨t, x⟩).2 tag
  simp only [List.mem_filter, bne_iff_ne]
  by_cases hx : p.work = x
  · subst hx
    rw [gone]
    refine ⟨fun ⟨hp, ht⟩ => ?_, nofun⟩
    rw [h.entry p, tag] at hp
    exact absurd (Option.some.inj hp).symm ht
  · rw [tags p.work fun e => hx (Option.some.inj e).symm, ← h.entry p]
    refine ⟨And.left, fun hp => ⟨hp, fun ht => hx ?_⟩⟩
    rw [tag_injective h.once hp entry ht]

/-- A command ends by the tag that its record kept, and the record is gone (R180). -/
theorem Ledger.finish (h : Ledger m d l) {r : Record} {x : ParkedWork} (tag : keptTag d x = some r.tag)
    (gone : keptTag e x = none) (tags : TagsStay (some x) d e) (parked : e.parked = d.parked.filter (·.tag != r.tag))
    (completions : e.completions.length ≤ d.completions.length + 1) : Ledger m e (l.filter (·.tag != r.tag)) where
  entry := h.entry_filter tag gone tags
  once := h.once.sublist ((List.filter_sublist).map _)
  listed p hp := by
    obtain ⟨hp, ht⟩ := List.mem_filter.1 hp
    rw [parked]
    exact (h.listed p hp).imp_left fun hq => List.mem_filter.2 ⟨hq, ht⟩
  kept q hq := by
    rw [parked] at hq
    obtain ⟨hq, ht⟩ := List.mem_filter.1 hq
    exact (h.kept q hq).imp_left fun hl => List.mem_filter.2 ⟨hl, ht⟩
  parkedOnce := by
    rw [parked]
    exact h.parkedOnce.sublist ((List.filter_sublist).map _)
  apart p hp q hq := by
    rw [parked] at hq
    exact h.apart p hp q (List.mem_of_mem_filter hq)
  standing p hp := h.standing p (List.mem_of_mem_filter hp)
  bounded := by
    have := length_filter_tag ((h.entry ⟨r.tag, x⟩).2 tag)
    have := h.bounded
    omega

/-- The record of the command taken begins to keep its tag, which no parked command carries (R178). -/
theorem Ledger.launch (h : Ledger .command d l) {t : Tag} {x : ParkedWork} (fresh : d.tagInUse t = false)
    (empty : keptTag d x = none) (starts : keptTag e x = some t) (tags : TagsStay (some x) d e) (parked : e.parked = d.parked)
    (completions : e.completions.length ≤ d.completions.length) :
    Ledger (.airborne { tag := t, work := x }) e ({ tag := t, work := x } :: l) where
  entry p := by
    rw [List.mem_cons]
    by_cases hx : p.work = x
    · subst hx
      have out : p ∉ l := fun hp => by rw [h.entry p, empty] at hp; cases hp
      rw [starts]
      simp only [out, or_false, Option.some.injEq]
      exact ⟨fun e => by rw [e], fun e => by cases p; simp_all⟩
    · rw [tags p.work fun e => hx (Option.some.inj e).symm, ← h.entry p]
      exact or_iff_right fun e => hx (by rw [e])
  once := by
    rw [List.map_cons, List.nodup_cons]
    refine ⟨fun ht => ?_, h.once⟩
    obtain ⟨p, hp, ht⟩ := List.mem_map.1 ht
    have hq := (h.listed p hp).resolve_right id
    simp only [Directory.tagInUse, List.any_eq_false, beq_iff_eq] at fresh
    exact fresh p hq ht
  listed p hp := by
    rw [parked]
    rcases List.mem_cons.1 hp with rfl | hp
    · exact .inr rfl
    · exact .inl ((h.listed p hp).resolve_right id)
  kept q hq := by
    rw [parked] at hq
    exact .inl (List.mem_cons_of_mem _ ((h.kept q hq).resolve_right id))
  parkedOnce := by rw [parked]; exact h.parkedOnce
  apart p hp q hq e := by
    rw [parked] at hq
    have := (h.entry q).1 ((h.kept q hq).resolve_right id)
    rw [e, hp, empty] at this
    cases this
  standing _ _ := id
  bounded := by
    have := h.bounded
    simp only [List.length_cons, Mode.command, Mode.airborne, Mode.whole] at *
    omega

/-- The command in flight parks. -/
theorem Ledger.park {p : Parked} (h : Ledger (.airborne p) d l) (keeps : keptTag d p.work ≠ none) :
    Ledger .whole (d.park p) l := by
  have hp : p ∈ l := by
    obtain ⟨t, ht⟩ := Option.ne_none_iff_exists'.1 keeps
    have hq := (h.entry ⟨t, p.work⟩).2 ht
    rcases h.listed _ hq with hq' | hf
    · exact absurd rfl (h.apart p rfl ⟨t, p.work⟩ hq')
    · exact hf ▸ hq
  refine ⟨h.entry, h.once, fun q hq => ?_, fun q hq => ?_, ?_, nofun, fun _ _ => id, h.bounded⟩
  · exact .inl (List.mem_append.2 ((h.listed q hq).imp_right fun e => List.mem_singleton.2 e))
  · rcases List.mem_append.1 hq with hq | hq
    · exact h.kept q hq
    · exact .inl (List.mem_singleton.1 hq ▸ hp)
  · rw [Directory.park, List.map_append, List.nodup_append]
    refine ⟨h.parkedOnce, List.nodup_singleton _, ?_⟩
    rintro a ha b hb rfl
    obtain ⟨q, hq, rfl⟩ := List.mem_map.1 ha
    have e : q = p := tag_injective h.once ((h.kept q hq).resolve_right id) hp (List.mem_singleton.1 hb)
    exact h.apart p rfl q hq (by rw [e])

/-- The command in flight has ended. -/
theorem Ledger.land {p : Parked} (h : Ledger (.airborne p) d l) (gone : keptTag d p.work = none) : Ledger .whole d l where
  entry := h.entry
  once := h.once
  listed q hq := (h.listed q hq).imp_right fun e => by
    rw [h.entry q, e, gone] at hq
    cases hq
  kept := h.kept
  parkedOnce := h.parkedOnce
  apart := nofun
  standing := h.standing
  bounded := h.bounded

theorem nodup_of_tags (h : (l.map (·.tag)).Nodup) : l.Nodup := h.of_map _

/-- A command is taken: between two events the ledger is no longer than the Parked List (R177). -/
theorem Ledger.take (h : Ledger .whole d l) (free : d.placeFree = true) : Ledger .command d l where
  entry := h.entry
  once := h.once
  listed := h.listed
  kept := h.kept
  parkedOnce := h.parkedOnce
  apart := nofun
  standing := h.standing
  bounded := by
    have free : d.parked.length + d.completions.length < 16 := by simpa [Directory.placeFree] using free
    have := (List.subperm_of_subset (nodup_of_tags h.once) fun p hp => (h.listed p hp).resolve_right id).length_le
    show l.length + d.completions.length + 1 ≤ 16
    omega

/-- The command taken has its record. -/
theorem Ledger.record (h : Ledger .command d l) (r : Record) : Ledger .whole (d.record r) l where
  entry := h.entry
  once := h.once
  listed := h.listed
  kept := h.kept
  parkedOnce := h.parkedOnce
  apart := nofun
  standing := h.standing
  bounded := by
    have := h.bounded
    simp only [Directory.record, List.length_append, List.length_singleton, Mode.command, Mode.whole] at *
    omega

/-- A parked command's record is gone, and its completion record is still to come (R130). -/
theorem Ledger.give (h : Ledger .command d l) {t : Tag} {x : ParkedWork} (parked : { tag := t, work := x } ∈ d.parked)
    (gone : keptTag e x = none) (tags : TagsStay (some x) d e) (list : e.parked = d.parked)
    (completions : e.completions = d.completions) : Ledger (.aborting t) e (l.filter (·.tag != t)) where
  entry := h.entry_filter ((h.entry ⟨t, x⟩).1 ((h.kept _ parked).resolve_right id)) gone tags
  once := h.once.sublist ((List.filter_sublist).map _)
  listed p hp := by
    rw [list]
    exact h.listed p (List.mem_of_mem_filter hp)
  kept q hq := by
    rw [list] at hq
    by_cases ht : q.tag = t
    · exact .inr ht
    · exact .inl (List.mem_filter.2 ⟨(h.kept q hq).resolve_right id, by simpa using ht⟩)
  parkedOnce := by rw [list]; exact h.parkedOnce
  apart := nofun
  standing p hp he := by
    have := (List.mem_filter.1 hp).2
    simp [show p.tag = t from he] at this
  bounded := by
    have := length_filter_tag ((h.kept _ parked).resolve_right id)
    have := h.bounded
    simp only [completions, Mode.command, Mode.aborting, Mode.whole] at *
    omega

/-- The record of the command given up. -/
theorem Ledger.endAbort {r : Record} (h : Ledger (.aborting r.tag) d l) : Ledger .command (d.finish r) l where
  entry := h.entry
  once := h.once
  listed p hp := .inl (List.mem_filter.2 ⟨(h.listed p hp).resolve_right id, bne_iff_ne.2 (h.standing p hp)⟩)
  kept q hq := by
    obtain ⟨hq, ht⟩ := List.mem_filter.1 hq
    refine .inl ((h.kept q hq).resolve_right fun e => ?_)
    simp [show q.tag = r.tag from e] at ht
  parkedOnce := h.parkedOnce.sublist ((List.filter_sublist).map _)
  apart := nofun
  standing _ _ := id
  bounded := by
    have := h.bounded
    simp only [Directory.finish, Directory.record, List.length_append, List.length_singleton, Mode.aborting, Mode.command, Mode.whole] at *
    omega

/-- Between two events the ledger and the Parked List are one. -/
theorem ledger_iff : (∃ l, Ledger .whole d l) ↔ ParkedKept d ∧ PartsParked d ∧ ResultsBounded d := by
  constructor
  · rintro ⟨l, h⟩
    have sub : ∀ p ∈ d.parked, p ∈ l := fun p hp => (h.kept p hp).resolve_right id
    have sup : ∀ p, keptTag d p.work = some p.tag → p ∈ d.parked := fun p hp => (h.listed p ((h.entry p).2 hp)).resolve_right id
    refine ⟨⟨fun p hp => (h.entry p).1 (sub p hp), h.parkedOnce⟩, ⟨fun i w hw => ?_, fun k p hp => ?_⟩, ?_⟩
    · obtain ⟨h1, h2, h3⟩ := keptTag_of_window hw
      exact ⟨fun p hp => sup _ (by rw [h1, Option.mem_def.1 hp]; rfl), fun t ht => sup _ (by rw [h2, Option.mem_def.1 ht]),
        fun x hx => sup _ (by rw [h3, Option.mem_def.1 hx]; rfl)⟩
    · exact sup _ (by rw [keptTag_detach, Option.mem_def.1 hp]; rfl)
    · have := (List.subperm_of_subset (nodup_of_tags h.parkedOnce) sub).length_le
      have := h.bounded
      show d.parked.length + d.completions.length ≤ 16
      simp only [Mode.whole] at this
      omega
  · rintro ⟨⟨kept, once⟩, ⟨windows, agents⟩, bounded⟩
    refine ⟨d.parked, fun p => ⟨kept p, fun hp => ?_⟩, once, fun _ hp => .inl hp, fun _ hp => .inl hp, once, nofun,
      fun _ _ => id, bounded⟩
    obtain ⟨t, x⟩ := p
    cases x with
    | detach k =>
      obtain ⟨p, kept, rfl⟩ := Option.map_eq_some_iff.1 hp
      exact agents k p kept
    | retire i =>
      obtain ⟨w, hw, ht⟩ := Option.bind_eq_some_iff.1 hp
      exact (windows i w hw).2.1 t ht
    | revise i =>
      obtain ⟨p, kept, rfl⟩ := Option.map_eq_some_iff.1 hp
      obtain ⟨w, hw, kept⟩ := Option.bind_eq_some_iff.1 kept
      exact (windows i w hw).1 p kept
    | watch i =>
      obtain ⟨p, kept, rfl⟩ := Option.map_eq_some_iff.1 hp
      obtain ⟨w, hw, kept⟩ := Option.bind_eq_some_iff.1 kept
      exact (windows i w hw).2.2 p kept

end

end Sys2Proof.Machine
end

section
/-! SUPPORT. The ledger and the detaches in progress under the phases of an event, and the laws of parked commands under every event. -/

namespace Sys2Proof.Machine

open Sys2Proof.Safety

theorem window_endWatch_same (d : Directory) (i : SlotId) :
    (d.endWatch i).window i = (d.window i).map fun w => { w with watch := none } := by
  unfold Directory.endWatch
  cases hw : d.window i with
  | none => simpa using hw
  | some w =>
    rw [Option.bind_some]
    cases hx : w.watch with
    | none =>
      dsimp only
      rw [hw, Option.map_some, ← hx]
    | some x => simp [hw]

theorem tagsStay_modAgent (d : Directory) (k : Agent) {f : AgentRecord → AgentRecord}
    (h : (f (d.agent k)).detach.map (·.tag) = (d.agent k).detach.map (·.tag)) : TagsStay none d (d.modAgent k f) := fun y _ => by
  cases y with
  | detach j =>
    rw [keptTag_detach, keptTag_detach, agent_modAgent]
    split
    · next e => subst e; exact h
    · rfl
  | _ => rfl

/-- The tags under a window written in one slot. -/
theorem tagsStay_withWindow {x : Option ParkedWork} {d : Directory} {i : SlotId} {v w : Window} (hv : d.window i = some v)
    (revision : x ≠ some (.revise i) → w.revision = v.revision) (retireTag : x ≠ some (.retire i) → w.retireTag = v.retireTag)
    (watch : x ≠ some (.watch i) → w.watch = v.watch) : TagsStay x d (withWindow d i w) := by
  rw [← modWindow_eq_withWindow (fun _ => w) hv]
  refine tagsStay_modWindow fun u hu => ?_
  rw [hv] at hu
  cases hu
  exact ⟨revision, retireTag, watch⟩

theorem TagsStay.finish {x : Option ParkedWork} {d e : Directory} (h : TagsStay x d e) (r : Record) :
    TagsStay x d (e.finish r) := h.trans ((tagsStay_of_same (fun _ => rfl) fun _ => rfl).mono x)

theorem completions_finish_le (d : Directory) (r : Record) : (d.finish r).completions.length ≤ d.completions.length + 1 := by
  simp [Directory.finish, Directory.record]

section
variable {m : Mode} {d : Directory} {l : List Parked} {i : SlotId}

/-- A watch ends: of its window, or by name. -/
theorem Ledger.endWatch (h : Ledger m d l) {r : Record} (tag : keptTag d (.watch i) = some r.tag) :
    Ledger m ((d.modWindow i fun w => { w with watch := none }).finish r) (l.filter (·.tag != r.tag)) := by
  refine h.finish tag ?_ ?_ rfl (completions_finish_le _ _)
  · rw [keptTag_watch, window_finish, window_modWindow, if_pos rfl]
    cases d.window i <;> rfl
  · refine TagsStay.finish ?_ r
    exact tagsStay_modWindow fun w _ => ⟨fun _ => rfl, fun _ => rfl, fun hx => absurd rfl hx⟩

theorem Ledger.windowGone (h : Ledger m d l) (i : SlotId) : ∃ l', Ledger m (d.endWatch i) l' := by
  unfold Directory.endWatch
  cases hx : (d.window i).bind (·.watch) with
  | none => exact ⟨l, h⟩
  | some x => exact ⟨_, h.endWatch (r := Record.counted x.tag .watch .windowGone (d.handleWord i) 0) (by rw [keptTag_watch, hx]; rfl)⟩

theorem Ledger.applyRevision (h : Ledger m d l) {w : Window} (hw : d.window i = some w) :
    ∃ l', Ledger m (d.applyRevision i) l' := by
  cases hr : w.revision with
  | none => exact ⟨l, by rw [applyRevision_none hw hr]; exact h⟩
  | some p =>
    obtain ⟨r, tag, e⟩ := applyRevision_some hw hr
    rw [e]
    refine ⟨_, h.finish (x := .revise i) (by rw [(keptTag_of_window hw).1, hr, tag]; rfl) ?_ ?_ rfl
      (completions_finish_le _ _)⟩
    · rw [keptTag_revise, window_finish, window_withWindow, if_pos rfl]
      rfl
    · refine TagsStay.finish ?_ r
      exact tagsStay_withWindow hw (fun hx => absurd rfl hx) (fun _ => rfl) fun _ => rfl

/-- A retirement completes: the window's watch ends, and the RETIRE; a window that retires has no pending revision (R10). -/
theorem Ledger.completeRetirement (h : Ledger m d l) {w : Window} {c : RecallContext} (parts : PartsFollowCauses w)
    (hw : d.window i = some w) (hc : w.context = some c) (hr : c.retire = true) :
    ∃ l', Ledger m (d.completeRetirement i) l' := by
  obtain ⟨_, p2, p3, _⟩ := parts
  have retiring : w.retireTag.isSome = true := by rw [p2, hc]; exact hr
  have noRevision : w.revision = none := by
    by_contra hn
    have := p3 (Option.isSome_iff_ne_none.2 hn)
    simp [this] at retiring
  have closed : Ledger m (d.modWindow i fun w => { w with context := none }) l :=
    h.same (tagsStay_modWindow_same d i fun _ => ⟨rfl, rfl, rfl⟩) rfl le_rfl
  have eased := retirementQuiet_eases d i none
  obtain ⟨l', ended⟩ := (closed.same eased.tagsStay eased.parked eased.completions).windowGone i
  obtain ⟨v, hv, he⟩ := eased.window_some' (i := i) (w := { w with context := none }) (by simp [hw])
  have here : ((d.retirementQuiet i).endWatch i).window i = some { v with watch := none } := by
    rw [window_endWatch_same, hv]
    rfl
  obtain ⟨tag, _⟩ | ⟨r, tag, e⟩ := completeRetirement_eq hw
  · simp [tag] at retiring
  · rw [e]
    generalize (d.retirementQuiet i).endWatch i = x at ended here
    refine ⟨_, ended.finish (x := .retire i) ?_ ?_ ?_ rfl (completions_finish_le _ _)⟩
    · rw [(keptTag_of_window here).2.1]
      exact he.retireTag.trans tag
    · rw [keptTag_retire, window_finish, window_freeSlot, if_pos rfl]
      rfl
    · refine tagsStay_slot (i := i) (fun j hj => by simp [hj]) (fun _ => rfl) (fun _ => ?_) (fun hx => absurd rfl hx) fun _ => ?_
      · rw [here, window_finish, window_freeSlot, if_pos rfl]
        exact (he.revision.trans noRevision).symm
      · rw [here, window_finish, window_freeSlot, if_pos rfl]
        rfl

end

theorem Directory.parked_strike (d : Directory) (k : Agent) (i : SlotId) : (d.strike k i).parked = d.parked := by
  have same : (d.strike k i).parked = (d.setHolding i k .none).parked := rfl
  rw [same, Directory.setHolding]
  split <;> rfl

theorem Directory.completions_strike (d : Directory) (k : Agent) (i : SlotId) : (d.strike k i).completions = d.completions := by
  have same : (d.strike k i).completions = (d.setHolding i k .none).completions := rfl
  rw [same, Directory.setHolding]
  split <;> rfl

theorem ledger_work {m n : Mode} {d e : Directory} (h : Work m d n e) (parts : EveryWindow PartsFollowCauses d)
    (g : ∃ l, Ledger m d l) : ∃ l, Ledger n e l := by
  obtain ⟨same, _⟩ := h.sameCommand
  obtain ⟨l, g⟩ := g
  suffices ∃ l', Ledger m e l' from this.imp fun _ x => x.mode same
  cases h with
  | ease _ he => exact ⟨l, g.same he.tagsStay he.parked he.completions⟩
  | strike k i => exact ⟨l, g.same (tagsStay_strike d k i) (d.parked_strike k i) (by rw [d.completions_strike k i])⟩
  | apply hw => exact g.applyRevision hw
  | retire hw hc hr => exact g.completeRetirement (parts _ _ hw) hw hc hr
  | relax => exact ⟨l, g⟩
  | _ => exact ⟨l, g.same (tagsStay_modWindow_same d _ fun _ => ⟨rfl, rfl, rfl⟩) rfl le_rfl⟩

/-! ### Detaches in progress (R155) -/

/-- A detach is in progress exactly while the agent is DETACHING, but for agents on their way out of that state. -/
structure DetachInv (m : Mode) (d : Directory) : Prop where
  detaching : ∀ k, ¬ m.departing k → DetachWhileDetaching (d.agent k)
  departing : ∀ k, m.departing k → (d.agent k).state ≠ .detaching

theorem detachWhileDetaching_iff {a : AgentRecord} :
    DetachWhileDetaching a ↔ ((a.detach.map (·.tag)).isSome = true ↔ a.state = .detaching) := by
  rw [Option.isSome_map, DetachWhileDetaching]

theorem DetachInv.stay {m n : Mode} {d e : Directory} (h : DetachInv m d) (hm : n.departing = m.departing)
    (states : ∀ k, (e.agent k).state = (d.agent k).state)
    (detaches : ∀ k, (e.agent k).detach.map (·.tag) = (d.agent k).detach.map (·.tag)) : DetachInv n e where
  detaching k hk := by
    rw [detachWhileDetaching_iff, states, detaches, ← detachWhileDetaching_iff]
    exact h.detaching k (hm ▸ hk)
  departing k hk := by
    rw [states]
    exact h.departing k (hm ▸ hk)

/-- One agent changes its state, on its way out: its detach in progress ends later. -/
theorem DetachInv.leave {m n : Mode} {d : Directory} (h : DetachInv m d) {k : Agent} {f : AgentRecord → AgentRecord}
    (hm : n.departing = (m.depart k).departing) (out : (f (d.agent k)).state ≠ .detaching) : DetachInv n (d.modAgent k f) where
  detaching j hj := by
    rw [hm] at hj
    have hk : j ≠ k := fun e => hj (.inr e)
    rw [agent_modAgent, if_neg hk]
    exact h.detaching j fun x => hj (.inl x)
  departing j hj := by
    rw [hm] at hj
    rw [agent_modAgent]
    split
    · next e => exact e ▸ out
    · next e => exact h.departing j (hj.resolve_right e)

/-- One agent's record is rewritten, with its state and its detach in accord. -/
theorem DetachInv.accord {m n : Mode} {d : Directory} (h : DetachInv m d) {k : Agent} {f : AgentRecord → AgentRecord}
    (hm : n.departing = m.departing) (hk : ¬ m.departing k) (accord : DetachWhileDetaching (f (d.agent k))) :
    DetachInv n (d.modAgent k f) where
  detaching j hj := by
    rw [agent_modAgent]
    split
    · next e => exact e ▸ accord
    · exact h.detaching j (hm ▸ hj)
  departing j hj := by
    rw [hm] at hj
    have hne : j ≠ k := fun e => hk (e ▸ hj)
    rw [agent_modAgent, if_neg hne]
    exact h.departing j hj

theorem DetachInv.endDetach {m : Mode} {d : Directory} {k : Agent} (h : DetachInv (m.depart k) d) (x : Status) :
    DetachInv m (d.endDetach k x) where
  detaching j hj := by
    rw [agent_endDetach]
    split
    · next e =>
      have out := h.departing j (.inr e)
      exact ⟨fun hd => absurd hd Bool.false_ne_true, fun hs => absurd hs out⟩
    · next e => exact h.detaching j fun hk => hk.elim hj e
  departing j hj := by
    have out := h.departing j (.inl hj)
    rw [agent_endDetach]
    split <;> exact out

end Sys2Proof.Machine
end

section
/-! SUPPORT. The laws of parked commands under every phase, and so under every event (R155, R177, R180). -/

namespace Sys2Proof.Machine

open Sys2Proof.Safety

theorem detachInv_work {m n : Mode} {d e : Directory} (h : Work m d n e) (g : DetachInv m d) : DetachInv n e :=
  g.stay h.sameCommand.2 h.calm.states h.calm.detaches

/-- Agents that stay as they were. -/
theorem DetachInv.same {m n : Mode} {d e : Directory} (h : DetachInv m d) (hm : n.departing = m.departing)
    (ha : ∀ k, e.agent k = d.agent k) : DetachInv n e :=
  h.stay hm (fun k => by rw [ha]) fun k => by rw [ha]

/-- A table with one window rewritten, and the records of commands that ended, has its agents still. -/
theorem agent_retireStarted {d : Directory} {i : SlotId} {w : Window} (t : Tag) (force : Bool) (hw : d.window i = some w)
    (k : Agent) : (d.retireStarted i t force).agent k = d.agent k := by
  obtain ⟨d₁, h, e⟩ := retireStarted_eq t force hw
  rw [e, agent_withWindow]
  obtain ⟨_, rfl⟩ | ⟨_, _, _, _, rfl⟩ := h
  · rfl
  · rfl

theorem detachInv_phase {m n : Mode} {d e : Directory} (h : Phase m d n e) (g : DetachInv m d) : DetachInv n e := by
  cases h with
  | work h => exact detachInv_work h g
  | @raise _ _ i w k x =>
    exact g.stay rfl (fun j => by rw [agent_setHolding d i k j x]) fun j => by rw [agent_setHolding d i k j x]
  | revise hw _ _ _ eased =>
    rw [reviseStarted_eq _ hw] at eased
    exact (g.same (n := .airborne _) rfl fun k => agent_withWindow ..).stay rfl eased.states eased.detaches
  | retire hw _ _ eased =>
    exact (g.same (n := .airborne _) rfl (agent_retireStarted _ _ hw)).stay rfl eased.states eased.detaches
  | @admission d k x out => exact g.accord rfl id ⟨nofun, nofun⟩
  | detach => exact g.accord rfl id ⟨fun _ => rfl, fun _ => rfl⟩
  | depart _ out => exact g.leave rfl (out.elim (fun e => by rw [e]; nofun) fun e => by rw [e]; nofun)
  | vacate => exact g.leave rfl nofun
  | rejoin => exact g.leave rfl nofun
  | endDetach k x => exact g.endDetach x
  | _ => exact g.same rfl fun _ => rfl

theorem Ledger.windowTag {m : Mode} {d : Directory} {l : List Parked} {i : SlotId} {r : Record} (h : Ledger m d l)
    (watched : (∃ w x, d.window i = some w ∧ w.watch = some x ∧ x.tag = r.tag) ∨
      ({ tag := r.tag, work := .watch i } ∈ d.parked ∧ ¬ m.ending r.tag)) : keptTag d (.watch i) = some r.tag := by
  rcases watched with ⟨w, x, hw, hx, e⟩ | ⟨hp, hn⟩
  · rw [(keptTag_of_window hw).2.2, hx, Option.map_some, e]
  · exact (h.entry _).1 ((h.kept _ hp).resolve_right hn)

/-- The REVISE that RETIRE supersedes has its record, if one waits (R133). -/
theorem Ledger.supersede {d d₁ : Directory} {l : List Parked} {i : SlotId} {w : Window} (h : Ledger .command d l) (force : Bool)
    (hw : d.window i = some w)
    (h₁ : (w.revision = none ∧ d₁ = d) ∨ ∃ p r, w.revision = some p ∧ r.tag = p.tag ∧ d₁ = d.finish r) :
    ∃ l', Ledger .command (withWindow d₁ i (w.superseded force)) l' := by
  obtain ⟨hr, rfl⟩ | ⟨p, r, hr, tag, rfl⟩ := h₁
  · have same : w.superseded force = w := by simp [Window.superseded, hr]
    exact ⟨l, by rw [same, withWindow_self hw]; exact h⟩
  · have gone : (w.superseded force).revision = none := by simp [Window.superseded, hr, Window.modContext]
    have keeps : (w.superseded force).retireTag = w.retireTag ∧ (w.superseded force).watch = w.watch := by
      unfold Window.superseded
      split <;> exact ⟨rfl, rfl⟩
    refine ⟨_, h.finish (x := .revise i) (by rw [(keptTag_of_window hw).1, hr, tag]; rfl) ?_ ?_ rfl (completions_finish_le d r)⟩
    · rw [keptTag_revise, window_withWindow, if_pos rfl, Option.bind_some, gone]
      rfl
    · exact ((TagsStay.refl _ d).finish r).trans
        (tagsStay_withWindow (d := d.finish r) hw (fun hx => absurd rfl hx) (fun _ => keeps.1) fun _ => keeps.2)

theorem Ledger.retire {d e : Directory} {l : List Parked} {i : SlotId} {w : Window} {t : Tag} {force : Bool}
    (h : Ledger .command d l) (parts : PartsFollowCauses w) (hw : d.window i = some w)
    (calm : w.context.any (·.retire) = false) (fresh : d.tagInUse t = false)
    (eased : (d.retireStarted i t force).Eases (some i) e) :
    ∃ l', Ledger (.airborne { tag := t, work := .retire i }) e l' := by
  obtain ⟨d₁, h₁, e₁⟩ := retireStarted_eq t force hw
  obtain ⟨l', h'⟩ := h.supersede force hw h₁
  have noTag := parts.retireTag_none calm
  obtain ⟨noRevision, _⟩ := parts.superseded force
  have here : (withWindow d₁ i (w.superseded force)).window i = some (w.superseded force) := by simp
  have tagBefore : (w.superseded force).retireTag = none := by
    unfold Window.superseded
    split <;> exact noTag
  have started : d.retireStarted i t force = withWindow (withWindow d₁ i (w.superseded force)) i (w.retireStarted t force) := by
    rw [e₁, withWindow_withWindow]
  refine ⟨_, h'.launch (e := e) ?_ ?_ ?_ ?_ ?_ ?_⟩
  · obtain ⟨_, rfl⟩ | ⟨_, r, _, _, rfl⟩ := h₁
    · exact fresh
    · simp only [Directory.tagInUse, List.any_eq_false] at fresh ⊢
      exact fun p hp => fresh p (List.mem_of_mem_filter hp)
  · rw [(keptTag_of_window here).2.1, tagBefore]
  · obtain ⟨v, hv, he⟩ := eased.window_some' (i := i) (w := w.retireStarted t force) (by rw [e₁]; simp)
    rw [(keptTag_of_window hv).2.1, he.retireTag]
    rfl
  · rw [started] at eased
    refine (tagsStay_withWindow here (fun _ => ?_) (fun hx => absurd rfl hx) fun _ => ?_).trans (eased.tagsStay.mono _)
    · rfl
    · rfl
  · rw [eased.parked, started]
    rfl
  · rw [started] at eased
    exact eased.completions

theorem Ledger.revise {d e : Directory} {l : List Parked} {i : SlotId} {w : Window} {p : PendingRevision}
    (h : Ledger .command d l) (parts : PartsFollowCauses w) (hw : d.window i = some w)
    (calm : w.context.any (·.revision) = false) (fresh : d.tagInUse p.tag = false)
    (eased : (d.reviseStarted i p).Eases (some i) e) :
    ∃ l', Ledger (.airborne { tag := p.tag, work := .revise i }) e l' := by
  rw [reviseStarted_eq p hw] at eased
  refine ⟨_, h.launch fresh ?_ ?_ ?_ eased.parked eased.completions⟩
  · rw [(keptTag_of_window hw).1, parts.revision_none calm]
    rfl
  · obtain ⟨v, hv, he⟩ := eased.window_some' (i := i) (w := w.reviseStarted p) (by simp)
    rw [(keptTag_of_window hv).1, he.revision]
    rfl
  · refine TagsStay.trans ?_ (eased.tagsStay.mono _)
    exact tagsStay_withWindow hw (fun hx => absurd rfl hx) (fun _ => rfl) fun _ => rfl

theorem Ledger.watch {d : Directory} {l : List Parked} {i : SlotId} {w : Window} {x : Watch} (h : Ledger .command d l)
    (hw : d.window i = some w) (unwatched : w.watch = none) (fresh : d.tagInUse x.tag = false) :
    ∃ l', Ledger .whole ((d.modWindow i fun w => { w with watch := some x }).park { tag := x.tag, work := .watch i }) l' := by
  have starts : keptTag (d.modWindow i fun w => { w with watch := some x }) (.watch i) = some x.tag := by
    simp [keptTag_watch, hw]
  refine ⟨_, (h.launch fresh ?_ starts ?_ rfl le_rfl).park (by rw [starts]; nofun)⟩
  · rw [(keptTag_of_window hw).2.2, unwatched]
    rfl
  · exact tagsStay_modWindow fun _ _ => ⟨fun _ => rfl, fun _ => rfl, fun hx => absurd rfl hx⟩

theorem tagsStay_detach {d : Directory} {k : Agent} {f : AgentRecord → AgentRecord} :
    TagsStay (some (.detach k)) d (d.modAgent k f) := fun y hy => by
  cases y with
  | detach j =>
    have hj : j ≠ k := fun e => hy (by rw [e])
    rw [keptTag_detach, keptTag_detach, agent_modAgent, if_neg hj]
  | _ => rfl

theorem Ledger.detach {d : Directory} {l : List Parked} {k : Agent} {t : Tag} (h : Ledger .command d l)
    (free : (d.agent k).detach = none) (fresh : d.tagInUse t = false) :
    ∃ l', Ledger (.airborne { tag := t, work := .detach k })
      (d.modAgent k fun a => { a with state := .detaching, detach := some { tag := t, forced := 0 } }) l' := by
  refine ⟨_, h.launch fresh ?_ ?_ tagsStay_detach rfl le_rfl⟩
  · rw [keptTag_detach, free]
    rfl
  · simp [keptTag_detach]

theorem Ledger.endDetach {m : Mode} {d : Directory} {l : List Parked} (h : Ledger m d l) (k : Agent) (x : Status) :
    ∃ l', Ledger m (d.endDetach k x) l' := by
  unfold Directory.endDetach
  cases hp : (d.agent k).detach with
  | none => exact ⟨l, h⟩
  | some p =>
    refine ⟨_, h.finish (x := .detach k) (r := Record.counted p.tag .agentDetach x (agentWord k) (BitVec.ofNat 32 p.forced)) ?_ ?_ ?_ rfl
      (completions_finish_le _ _)⟩
    · rw [keptTag_detach, hp]
      rfl
    · rw [keptTag_detach, agent_finish, agent_modAgent, if_pos rfl]
      rfl
    · exact tagsStay_detach.finish _

/-- An agent that is in no detach, where none is on its way out. -/
theorem DetachInv.detach_none {m : Mode} {d : Directory} {k : Agent} (h : DetachInv m d) (hk : ¬ m.departing k)
    (hs : (d.agent k).state ≠ .detaching) : (d.agent k).detach = none :=
  Option.not_isSome_iff_eq_none.1 fun hd => hs ((h.detaching k hk).1 hd)

theorem ledger_phase {m n : Mode} {d e : Directory} (h : Phase m d n e) (parts : EveryWindow PartsFollowCauses d)
    (detaches : DetachInv m d) (g : ∃ l, Ledger m d l) : ∃ l, Ledger n e l := by
  obtain ⟨l, g⟩ := g
  cases h with
  | work h => exact ledger_work h parts ⟨l, g⟩
  | enlist kind =>
    refine ⟨l, g.same (tagsStay_modWindow_same d _ fun w => ?_) rfl le_rfl⟩
    unfold Window.enlist
    split <;> exact ⟨rfl, rfl, rfl⟩
  | @raise _ _ i w k x hw =>
    rw [setHolding_eq hw]
    refine ⟨l, g.same ?_ rfl le_rfl⟩
    rw [← setHolding_eq hw]
    exact tagsStay_setHolding d i k x
  | endWatch watched => exact ⟨_, g.endWatch (g.windowTag watched)⟩
  | take free => exact ⟨l, g.take free⟩
  | record r => exact ⟨l, g.record r⟩
  | watch x hw unwatched fresh => exact g.watch hw unwatched fresh
  | @openWindow _ _ i f now vacant =>
    refine ⟨l, g.same (tagsStay_slot (i := i) (fun j hj => by simp [hj]) (fun _ => rfl) ?_ ?_ ?_) rfl le_rfl⟩
    all_goals
      intro _
      rw [window_fillSlot, if_pos rfl, vacant]
      rfl
  | reviseNow => exact ⟨l, g.same (tagsStay_modWindow_same d _ fun _ => ⟨rfl, rfl, rfl⟩) rfl le_rfl⟩
  | revise hw calm _ fresh eased => exact g.revise (parts _ _ hw) hw calm.2 fresh eased
  | retire hw calm fresh eased => exact g.retire (parts _ _ hw) hw calm fresh eased
  | park keeps => exact ⟨l, g.park keeps⟩
  | land gone => exact ⟨l, g.land gone⟩
  | @abortRevision _ i t parked =>
    refine ⟨_, Ledger.mode (m := .aborting t) (g.give (x := .revise i) parked ?_ ?_ rfl rfl) ⟨rfl, rfl, rfl⟩⟩
    · rw [keptTag_revise, window_modWindow, if_pos rfl]
      cases d.window i <;> rfl
    · exact tagsStay_modWindow fun w _ => ⟨fun hx => absurd rfl hx, fun _ => rfl, fun _ => rfl⟩
  | endAbort r => exact ⟨l, g.endAbort⟩
  | @admission _ k x out =>
    refine ⟨l, g.same (tagsStay_modAgent d k ?_) rfl le_rfl⟩
    rw [detaches.detach_none id fun e => by rw [e] at out; cases out]
    rfl
  | @detach _ k t online fresh =>
    obtain ⟨l', h⟩ := g.detach (detaches.detach_none id fun e => by rw [online] at e; cases e) fresh
    exact ⟨l', h.mode ⟨rfl, rfl, rfl⟩⟩
  | depart _ _ _ detach =>
    exact ⟨l, (g.same (tagsStay_modAgent d _ (by rw [detach])) rfl le_rfl).mode ⟨rfl, rfl, rfl⟩⟩
  | vacate => exact ⟨l, (g.same (tagsStay_modAgent d _ rfl) rfl le_rfl).mode ⟨rfl, rfl, rfl⟩⟩
  | rejoin => exact ⟨l, (g.same (tagsStay_modAgent d _ rfl) rfl le_rfl).mode ⟨rfl, rfl, rfl⟩⟩
  | endDetach k x => exact (g.mode (n := n) ⟨rfl, rfl, rfl⟩).endDetach k x

/-- The laws of parked commands, while an event runs. -/
structure ParkedInv (m : Mode) (d : Directory) : Prop where
  parts : EveryWindow PartsFollowCauses d
  detaches : DetachInv m d
  ledger : ∃ l, Ledger m d l

theorem parkedInv_phase {m n : Mode} {d e : Directory} (h : Phase m d n e) (g : ParkedInv m d) : ParkedInv n e :=
  ⟨parts_phase h g.parts, detachInv_phase h g.detaches, ledger_phase h g.parts g.detaches g.ledger⟩

theorem parkedInv_iff {d : Directory} : ParkedInv .whole d ↔ ParkedLaws d := by
  constructor
  · rintro ⟨parts, detaches, ledger⟩
    obtain ⟨kept, parked, bounded⟩ := ledger_iff.1 ledger
    exact ⟨parts, fun k => detaches.detaching k id, kept, parked, bounded⟩
  · rintro ⟨parts, detach, kept, parked, bounded⟩
    exact ⟨parts, ⟨fun k _ => detach k, nofun⟩, ledger_iff.2 ⟨kept, parked, bounded⟩⟩

theorem Directory.Blank.parkedLaws {d : Directory} (h : d.Blank) : ParkedLaws d where
  parts i w hw := by cases (h.windows i).symm.trans hw
  detach k := by simp [h.agents, AgentRecord.initial, DetachWhileDetaching]
  kept := by simp [ParkedKept, h.parked]
  parked := by
    refine ⟨fun i w hw => ?_, fun k p hp => ?_⟩
    · cases (h.windows i).symm.trans hw
    · simp [h.agents, AgentRecord.initial] at hp
  bounded := by simp [ResultsBounded, h.parked, h.completions]

/-- Settles O58: the parts of windows follow their causes through every phase, and the ledger of the standing records stays one with the
Parked List, but for the one command in flight. -/
theorem stepKeepsPartsAndParkedCommands : Obligations.StepKeepsPartsAndParkedCommands := by
  refine ⟨fun s t h hstep => parts_step hstep h, fun s t h hstep => ?_⟩
  rcases passes_step hstep with p | b
  · exact parkedInv_iff.1 (p.keeps parkedInv_phase (parkedInv_iff.2 h))
  · exact b.parkedLaws

end Sys2Proof.Machine
end

section
/-! SUPPORT. The laws of a window's recall under what a recall does to it: rights, sets, targets and causes (R7, R71, R94, R96, R99,
R122, R135, R145). -/

namespace Sys2Proof.Safety

open Sys2Proof.Machine

/-! ### The holdings that new fields affect (R122) -/

/-- The level to which new fields bring a holding, in the model's words. -/
theorem affectedTo_eq (w : Window) (f : FieldSet) (k : Agent) :
    affectedTo w f k =
      if w.fields.moved f then (if w.holding k = .none then none else some .none) else (look f.rights k).limit (w.holding k) := by
  have moved : w.fields.moved f = true ↔ (f.agentBase ≠ w.fields.agentBase ∨ f.size ≠ w.fields.size ∨
      f.targetBase ≠ w.fields.targetBase ∨ f.cacheable ≠ w.fields.cacheable) := by
    simp only [FieldSet.moved, Bool.or_eq_true, bne_iff_ne, or_assoc, ne_comm]
  simp only [affectedTo, moved]
  split
  · rfl
  · cases look f.rights k <;> cases w.holding k <;> rfl

/-- Without a right, no holding may stay. -/
theorem limit_none {h : Holding} (held : h ≠ .none) : Right.none.limit h = some .none := by
  cases h with
  | none => exact absurd rfl held
  | shared | owner => rfl

/-- What a right brings down to a level, it brings down from any higher holding too. -/
theorem limit_eq_some {r : Right} {h : Holding} {l : Level} (e : r.limit h = some l) :
    h ≠ .none ∧ ∀ h', h.rank ≤ h'.rank → r.limit h' = some l := by
  cases r with
  | write => cases h <;> cases e
  | none =>
    have held : h ≠ .none := by
      rintro rfl
      cases e
    refine ⟨held, fun h' low => ?_⟩
    rw [limit_none held] at e
    rw [limit_none (held_before low held), e]
  | read =>
    cases h with
    | none | shared => cases e
    | owner =>
      refine ⟨nofun, fun h' low => ?_⟩
      cases h' with
      | owner => exact e
      | none | shared => simp [Holding.rank] at low

theorem held_of_affectedTo {w : Window} {f : FieldSet} {k : Agent} {l : Level} (h : affectedTo w f k = some l) :
    w.holding k ≠ .none := by
  rw [affectedTo_eq] at h
  split at h
  · intro hn
    simp [hn] at h
  · exact (limit_eq_some h).1

/-- The model's list of affected holdings is the one of R122. -/
theorem mem_affected_iff {w : Window} {f : FieldSet} {k : Agent} {l : Level} :
    (k, l) ∈ w.affected f ↔ affectedTo w f k = some l := by
  rw [affectedTo_eq, Window.affected]
  split
  · simp only [Window.allHolders, List.mem_filterMap, List.mem_finRange, true_and, held_eq_true]
    constructor
    · rintro ⟨j, hj⟩
      split at hj
      · next hn =>
        cases hj
        rw [if_neg hn]
      · cases hj
    · intro h
      split at h
      · cases h
      · next hn =>
        cases h
        exact ⟨k, if_pos hn⟩
  · simp only [List.mem_filterMap, List.mem_finRange, true_and, Option.map_eq_some_iff]
    constructor
    · rintro ⟨j, x, hx, e⟩
      cases e
      exact hx
    · exact fun h => ⟨k, l, h, rfl⟩

/-- A holding that new fields affect after a fall, they affected before it, and to the same level. -/
theorem affectedTo_of_lower {v w : Window} {f : FieldSet} {k : Agent} {l : Level} (fields : w.fields = v.fields)
    (low : (w.holding k).rank ≤ (v.holding k).rank) (h : affectedTo w f k = some l) : affectedTo v f k = some l := by
  have held := held_before low (held_of_affectedTo h)
  rw [affectedTo_eq, fields] at h
  rw [affectedTo_eq]
  split at h
  · next hm =>
    rw [if_pos hm, if_neg held]
    split at h
    · cases h
    · exact h
  · next hm =>
    rw [if_neg hm]
    exact (limit_eq_some h).2 _ low

/-! ### A recall goes on -/

theorem allowed_eases {v w : Window} (e : v.Eases w) (h : HoldingsAllowed v) : HoldingsAllowed w := by
  intro k hk
  have low := e.lowers k
  obtain ⟨h1, h2, h3⟩ := h k (held_eq_true.2 (held_before low (held_eq_true.1 hk)))
  have right : w.right k = v.right k := by rw [Window.right, Window.right, e.fields]
  rw [e.fields, right]
  refine ⟨h1, h2, fun ho => h3 ?_⟩
  rw [ho] at low
  cases hv : v.holding k <;> simp_all [Holding.rank]

theorem retiring_eases {v w : Window} (e : v.Eases w) (h : RetiringTargetsAll v) : RetiringTargetsAll w := by
  intro c hc hr k hk
  have hc : w.context = some c := hc
  have flag : v.context.any (·.retire) = true := by rw [← e.retiring, hc]; exact hr
  obtain ⟨c₀, hc₀, hr₀⟩ := (Option.any_eq_true _ _).1 flag
  have held := held_eq_true.1 hk
  have t₀ := h c₀ hc₀ hr₀ k (held_eq_true.2 (held_before (e.lowers k) held))
  obtain ⟨t, ht, low⟩ := e.targets k held .none (by simpa [Window.target, hc₀] using t₀)
  simp only [Window.target, hc, Option.bind_some] at ht
  rw [ht]
  cases t with
  | none => rfl
  | shared => simp [Level.holding, Holding.rank] at low

theorem revising_eases {v w : Window} (e : v.Eases w) (h : RevisionTargetsAffected v) : RevisionTargetsAffected w := by
  intro c hc hr p hp k l ha
  have hc : w.context = some c := hc
  have flag : v.context.any (·.revision) = true := by rw [← e.revising, hc]; exact hr
  obtain ⟨c₀, hc₀, hr₀⟩ := (Option.any_eq_true _ _).1 flag
  rw [e.revision] at hp
  obtain ⟨t₀, ht₀, low₀⟩ := h c₀ hc₀ hr₀ p hp k l (affectedTo_of_lower e.fields (e.lowers k) ha)
  obtain ⟨t, ht, low⟩ := e.targets k (held_of_affectedTo ha) t₀ (by simpa [Window.target, hc₀] using ht₀)
  exact ⟨t, by simpa [Window.target, hc] using ht, low.trans low₀⟩

/-! ### A recall that waits for no agent (R117) -/

theorem not_member_of_waits {c : RecallContext} (h : c.waits = false) (k : Agent) : (look c.members k).isMember = false := by
  rw [RecallContext.waits, List.any_eq_false] at h
  simpa using h k (List.mem_finRange k)

/-- No agent is above its target. -/
theorem not_above_of_waits {w : Window} {c : RecallContext} (h : SetsSound w) (hc : w.context = some c) (hw : c.waits = false)
    {k : Agent} {t : Level} (ht : look c.targets k = some t) : (w.holding k).rank ≤ t.holding.rank := by
  by_contra hn
  have ha : (w.holding k).above t = true := above_iff.2 (not_le.1 hn)
  have := (h c hc k).2.2 ((aboveTarget_iff ht).2 ha)
  rw [not_member_of_waits hw k] at this
  cases this

/-- A RETIRING window that waits for no agent has no holder (R137). -/
theorem no_holder_of_retired {w : Window} {c : RecallContext} (h : SetsSound w) (r : RetiringTargetsAll w)
    (hc : w.context = some c) (hw : c.waits = false) (hr : c.retire = true) (k : Agent) : w.holding k = .none := by
  by_contra hn
  have low := not_above_of_waits h hc hw (r c hc hr k (held_eq_true.2 hn))
  exact hn (rank_eq_zero.1 (Nat.le_zero.1 low))

/-- What the new fields do not bring down, they allow. -/
theorem allowed_of_unaffected {w : Window} {f : FieldSet} (h : HoldingsAllowed w) {k : Agent} (hk : (w.holding k).held = true)
    (low : ∀ l, affectedTo w f k = some l → (w.holding k).rank ≤ l.holding.rank) :
    f.cacheable = true ∧ look f.rights k ≠ .none ∧ (w.holding k = .owner → look f.rights k = .write) := by
  obtain ⟨h1, _, _⟩ := h k hk
  have held := held_eq_true.1 hk
  simp only [affectedTo_eq] at low
  split at low
  · have := low .none rfl
    exact absurd (rank_eq_zero.1 (Nat.le_zero.1 this)) held
  · next hm =>
    have same : f.cacheable = w.fields.cacheable := by
      simp only [FieldSet.moved, Bool.or_eq_true, bne_iff_ne, not_or, not_not] at hm
      exact hm.2.symm
    refine ⟨same.trans h1, ?_⟩
    cases hr : look f.rights k with
    | write => exact ⟨nofun, fun _ => rfl⟩
    | none =>
      have := low .none (by rw [hr]; exact limit_none held)
      exact absurd (rank_eq_zero.1 (Nat.le_zero.1 this)) held
    | read =>
      refine ⟨nofun, fun owner => ?_⟩
      have := low .shared (by rw [hr, owner]; rfl)
      simp [owner, Holding.rank, Level.holding] at this

/-- A revision that is applied, no agent being waited for, allows the holdings there are (R126, R127). -/
theorem allowed_of_applied {w : Window} {c : RecallContext} {p : PendingRevision} (sets : SetsSound w)
    (revising : RevisionTargetsAffected w) (allowed : HoldingsAllowed w) (hc : w.context = some c) (hw : c.waits = false)
    (hr : c.revision = true) (hp : w.revision = some p) : HoldingsAllowed (w.applied p) := fun k hk =>
  allowed_of_unaffected allowed hk fun l ha => by
    obtain ⟨t, ht, low⟩ := revising c hc hr p hp k l ha
    exact (not_above_of_waits sets hc hw ht).trans low

end Sys2Proof.Safety
end

section
/-! SUPPORT. The laws of windows with a recall, while an event runs: a slot may be frayed, or not armed again yet. -/

namespace Sys2Proof.Machine

open Sys2Proof.Safety

/-- The laws of one window that do not name targets: what a recall's end rests on is in `Sought`. -/
structure Window.Sound (m : Mode) (i : SlotId) (w : Window) : Prop where
  causes : ¬ m.frayed i → CauseStands w
  sets : SetsSound w
  allowed : HoldingsAllowed w
  idle : ¬ m.unarmed i → IdleNeedsLimit w

/-- Who must come down is a target: every holder in RETIRING, and in REVISING those that the new fields affect (R122, R135). -/
def Window.Sought (w : Window) : Prop := RetiringTargetsAll w ∧ RevisionTargetsAffected w

theorem Window.Sought.eases {v w : Window} (e : v.Eases w) (h : v.Sought) : w.Sought :=
  ⟨retiring_eases e h.1, revising_eases e h.2⟩

theorem Window.Sound.eases {m : Mode} {i : SlotId} {v w : Window} (e : v.Eases w) (h : v.Sound m i) : w.Sound m i where
  causes hf := e.causes (h.causes hf)
  sets := e.sets h.sets
  allowed := allowed_eases e h.allowed
  idle hu := e.idle (h.idle hu)

/-- A mode with no more frayed slots, and no more unarmed ones, at `i`. -/
theorem Window.Sound.mode {m n : Mode} {i : SlotId} {w : Window} (h : w.Sound m i) (frayed : m.frayed i → n.frayed i)
    (unarmed : m.unarmed i → n.unarmed i) : w.Sound n i :=
  { h with causes := fun hf => h.causes fun x => hf (frayed x), idle := fun hu => h.idle fun x => hu (unarmed x) }

theorem sought_of_none {w : Window} (hc : w.context = none) : w.Sought :=
  ⟨fun c h => by simp [hc] at h, fun c h => by simp [hc] at h⟩

theorem sets_of_none {w : Window} (hc : w.context = none) : SetsSound w := fun c h => by simp [hc] at h

theorem causes_of_none {w : Window} (hc : w.context = none) : CauseStands w := fun c h => by simp [hc] at h

/-- No recall runs. -/
theorem Window.Sound.of_none {m : Mode} {i : SlotId} {w : Window} (hc : w.context = none)
    (allowed : HoldingsAllowed w) (idle : ¬ m.unarmed i → IdleNeedsLimit w) : w.Sound m i :=
  ⟨fun _ => causes_of_none hc, sets_of_none hc, allowed, idle⟩

/-- Nothing that these laws speak of changes. -/
theorem Window.Sound.same {m : Mode} {i : SlotId} {v w : Window} (h : v.Sound m i) (fields : w.fields = v.fields)
    (holdings : w.holdings = v.holdings) (pins : w.pins = v.pins) (context : w.context = v.context) (idle : w.idle = v.idle) :
    w.Sound m i := by
  obtain ⟨h1, h2, h3, h4⟩ := h
  refine ⟨fun hf => ?_, ?_, ?_, fun hu => ?_⟩
  · simpa only [CauseStands, context] using h1 hf
  · simpa only [SetsSound, AboveTarget, Window.holding, Window.pinCount, holdings, pins, context] using h2
  · simpa only [HoldingsAllowed, Window.holding, Window.right, holdings, fields] using h3
  · simpa only [IdleNeedsLimit, fields, idle] using h4 hu

theorem Window.Sought.same {v w : Window} (h : v.Sought) (fields : w.fields = v.fields) (holdings : w.holdings = v.holdings)
    (context : w.context = v.context) (revision : w.revision = v.revision) : w.Sought := by
  have held : ∀ k, w.holding k = v.holding k := fun k => by rw [Window.holding, Window.holding, holdings]
  refine ⟨fun c hc hr k hk => h.1 c (context ▸ hc) hr k (held k ▸ hk), fun c hc hr p hp k l ha => ?_⟩
  exact h.2 c (context ▸ hc) hr p (revision ▸ hp) k l (affectedTo_of_lower fields (by rw [held]) ha)

theorem Window.Sound.fray {m : Mode} {j : SlotId} {w : Window} (h : w.Sound m j) (i : SlotId) : w.Sound (m.fray i) j :=
  h.mode (fun x => .inl x) id

theorem Window.Sound.unarm {m : Mode} {j : SlotId} {w : Window} (h : w.Sound m j) (i : SlotId) : w.Sound (m.unarm i) j :=
  h.mode id fun x => .inl x

theorem Window.Sound.mend {m : Mode} {i j : SlotId} {w : Window} (h : w.Sound m j) (hj : j ≠ i) : w.Sound (m.mend i) j :=
  h.mode (fun x => ⟨x, hj⟩) id

theorem Window.Sound.rearm {m : Mode} {i j : SlotId} {w : Window} (h : w.Sound m j) (hj : j ≠ i) : w.Sound (m.rearm i) j :=
  h.mode id fun x => ⟨x, hj⟩

/-- Two windows with the same holdings, pins, targets and places. -/
structure Window.SameSets (v w : Window) : Prop where
  holdings : w.holdings = v.holdings
  pins : w.pins = v.pins
  targets : ∀ c', w.context = some c' → (∃ c, v.context = some c ∧ c'.targets = c.targets ∧ c'.members = c.members) ∨
    (c'.targets = Vector.replicate 8 none ∧ c'.members = Vector.replicate 8 .neither)

theorem Window.SameSets.holding {v w : Window} (h : v.SameSets w) (k : Agent) : w.holding k = v.holding k := by
  rw [Window.holding, Window.holding, h.holdings]

theorem Window.SameSets.sets {v w : Window} (h : v.SameSets w) (g : SetsSound v) : SetsSound w := by
  intro c' hc' k
  rcases h.targets c' hc' with ⟨c, hc, ht, hm⟩ | ⟨ht, hm⟩
  · have := g c hc k
    simpa only [AboveTarget, Window.pinCount, h.holding, h.pins, ht, hm] using this
  · have none : ¬ AboveTarget w c' k := by simp [AboveTarget, ht]
    have out : look c'.members k = .neither := by simp [hm]
    rw [out]
    exact ⟨nofun, nofun, fun ha => absurd ha none⟩

theorem Window.SameSets.allowed {v w : Window} (h : v.SameSets w) (fields : w.fields = v.fields) (g : HoldingsAllowed v) :
    HoldingsAllowed w := by
  intro k hk
  have := g k (by rwa [← h.holding k])
  rwa [h.holding, fields, Window.right, fields]

theorem Window.SameSets.of_modContext {w : Window} {f : RecallContext → RecallContext}
    (h : ∀ c, (f c).targets = c.targets ∧ (f c).members = c.members) : w.SameSets (w.modContext f) := by
  refine ⟨rfl, rfl, fun c' hc' => .inl ?_⟩
  obtain ⟨c, hc, rfl⟩ := Option.map_eq_some_iff.1 hc'
  exact ⟨c, hc, h c⟩

/-- A recall that starts: no agent is in a set, and none is above a target. -/
theorem Window.SameSets.of_blank {w : Window} (cause : Cause) (force : Bool) (r : Option Reservation) :
    w.SameSets { w with reservation := r, context := some ((RecallContext.blank force).addCause cause) } := by
  refine ⟨rfl, rfl, fun c' hc' => .inr ?_⟩
  cases hc'
  cases cause <;> exact ⟨rfl, rfl⟩

theorem causeless_addCause (c : RecallContext) (cause : Cause) : (c.addCause cause).causeless = false := by
  cases cause with
  | detach k => exact causeless_of_detach (k := k) (by simp [RecallContext.addCause])
  | _ => simp [RecallContext.causeless, RecallContext.addCause]

theorem Window.SameSets.trans {u v w : Window} (h : u.SameSets v) (g : v.SameSets w) : u.SameSets w := by
  refine ⟨g.holdings.trans h.holdings, g.pins.trans h.pins, fun c hc => ?_⟩
  rcases g.targets c hc with ⟨b, hb, ht, hm⟩ | x
  · rcases h.targets b hb with ⟨a, ha, ht', hm'⟩ | ⟨ht', hm'⟩
    · exact .inl ⟨a, ha, ht.trans ht', hm.trans hm'⟩
    · exact .inr ⟨ht.trans ht', hm.trans hm'⟩
  · exact .inr x

/-- A cause that joins, or starts a recall. -/
theorem Window.SameSets.of_cause (w : Window) (cause : Cause) (force : Bool) {v : Window} (hh : v.holdings = w.holdings)
    (hp : v.pins = w.pins) (hc : v.context = some ((w.context.getD (.blank force)).addCause cause)) : w.SameSets v := by
  have kept : ∀ c : RecallContext, (c.addCause cause).targets = c.targets ∧ (c.addCause cause).members = c.members := fun c => by
    cases cause <;> exact ⟨rfl, rfl⟩
  refine ⟨hh, hp, fun c' hc' => ?_⟩
  rw [hc] at hc'
  cases hc'
  cases hw : w.context with
  | none => exact .inr (kept (.blank force))
  | some c => exact .inl ⟨c, rfl, kept c⟩

theorem SameSets.superseded (w : Window) (force : Bool) : w.SameSets (w.superseded force) := by
  unfold Window.superseded
  split
  · exact ⟨rfl, rfl, (Window.SameSets.of_modContext (w := w) (f := fun c => { c with revision := false, retire := true, force := force })
      fun _ => ⟨rfl, rfl⟩).targets⟩
  · exact ⟨rfl, rfl, fun c hc => .inl ⟨c, hc, rfl, rfl⟩⟩

theorem sameSets_reviseStarted (w : Window) (p : PendingRevision) : w.SameSets (w.reviseStarted p) :=
  .of_cause w .revision p.force rfl rfl rfl

theorem sameSets_retireStarted (w : Window) (t : Tag) (force : Bool) : w.SameSets (w.retireStarted t force) :=
  (SameSets.superseded w force).trans (.of_cause _ .retire force rfl rfl rfl)

/-! ### An agent struck, or dismissed -/

theorem target_strike (c : RecallContext) (k j : Agent) :
    look (c.strike k).targets j = if j = k then none else look c.targets j := by
  simp [RecallContext.strike, RecallContext.setDetachAgent, RecallContext.setTarget, RecallContext.setMember]

theorem member_strike (c : RecallContext) (k j : Agent) :
    look (c.strike k).members j = if j = k then .neither else look c.members j := by
  simp [RecallContext.strike, RecallContext.setDetachAgent, RecallContext.setTarget, RecallContext.setMember]

theorem holding_strike (w : Window) (k j : Agent) : (w.strike k).holding j = if j = k then .none else w.holding j := by
  simp [Window.strike, Window.unlist, Window.unreserve, Window.holding, Window.setPins, Window.setHolding, Window.modContext]

theorem pinCount_strike (w : Window) (k j : Agent) : (w.strike k).pinCount j = if j = k then 0 else w.pinCount j := by
  simp [Window.strike, Window.unlist, Window.unreserve, Window.pinCount, Window.setPins, Window.setHolding, Window.modContext]

theorem sets_strike {w : Window} (h : SetsSound w) (k : Agent) : SetsSound (w.strike k) := by
  intro c' hc' j
  obtain ⟨c, hc, rfl⟩ := Option.map_eq_some_iff.1 hc'
  rw [AboveTarget, target_strike, member_strike, holding_strike, pinCount_strike]
  by_cases e : j = k
  · subst e
    simp [Membership.isOutstanding, Membership.isBlocked]
  · simp only [e, if_false]
    exact h c hc j

theorem allowed_strike {w : Window} (h : HoldingsAllowed w) (k : Agent) : HoldingsAllowed (w.strike k) := by
  intro j hj
  rw [holding_strike] at hj ⊢
  by_cases e : j = k
  · simp [e, Holding.held] at hj
  · simp only [e, if_false] at hj ⊢
    exact h j hj

theorem sought_strike {w : Window} (h : w.Sought) (k : Agent) : (w.strike k).Sought := by
  refine ⟨fun c' hc' hr j hj => ?_, fun c' hc' hr p hp j l ha => ?_⟩
  · obtain ⟨c, hc, rfl⟩ := Option.map_eq_some_iff.1 hc'
    rw [holding_strike] at hj
    by_cases e : j = k
    · simp [e, Holding.held] at hj
    · rw [target_strike, if_neg e]
      exact h.1 c hc hr j (by simpa [e] using hj)
  · obtain ⟨c, hc, rfl⟩ := Option.map_eq_some_iff.1 hc'
    have held := held_of_affectedTo ha
    rw [holding_strike] at held
    by_cases e : j = k
    · simp [e] at held
    · rw [target_strike, if_neg e]
      refine h.2 c hc hr p hp j l (affectedTo_of_lower (w := w.strike k) rfl ?_ ha)
      rw [holding_strike, if_neg e]

theorem causes_strike {w : Window} (h : CauseStands w) {k : Agent}
    (stays : ∀ c, w.context = some c → look c.detachAgents k = false) : CauseStands (w.strike k) := by
  intro c' hc'
  obtain ⟨c, hc, rfl⟩ := Option.map_eq_some_iff.1 hc'
  have same : put c.detachAgents k false = c.detachAgents := by
    rw [← stays c hc]
    exact put_look _ _
  have := h c hc
  simpa [RecallContext.strike, RecallContext.setDetachAgent, RecallContext.setTarget, RecallContext.setMember,
    RecallContext.causeless, RecallContext.detach, same] using this

theorem target_dismiss (c : RecallContext) (k j : Agent) (b : Bool) :
    look (c.dismiss k b).targets j = if b = true ∧ j = k then none else look c.targets j := by
  cases b <;> simp [RecallContext.dismiss, RecallContext.setDetachAgent, RecallContext.setTarget]

theorem member_dismiss (c : RecallContext) (k : Agent) (b : Bool) : (c.dismiss k b).members = c.members := by
  cases b <;> rfl

theorem sets_dismiss {w : Window} (h : SetsSound w) {k : Agent} {b : Bool} (empty : b = true → w.holding k = .none) :
    SetsSound (w.modContext (·.dismiss k b)) := by
  intro c' hc' j
  obtain ⟨c, hc, rfl⟩ := Option.map_eq_some_iff.1 hc'
  have old := h c hc j
  unfold AboveTarget at *
  rw [target_dismiss, member_dismiss]
  by_cases e : b = true ∧ j = k
  · obtain ⟨hb, rfl⟩ := e
    have low : ∀ l : Level, ¬ Holding.none.above l = true := fun l => by simp [above_iff, Holding.rank]
    have none := empty hb
    simp only [none, low] at old ⊢
    simpa [hb] using old
  · rw [if_neg e]
    exact old

theorem sought_dismiss {w : Window} (h : w.Sought) {k : Agent} {b : Bool} (empty : b = true → w.holding k = .none) :
    (w.modContext (·.dismiss k b)).Sought := by
  refine ⟨fun c' hc' hr j hj => ?_, fun c' hc' hr p hp j l ha => ?_⟩
  · obtain ⟨c, hc, rfl⟩ := Option.map_eq_some_iff.1 hc'
    have held : w.holding j ≠ .none := held_eq_true.1 hj
    have stays : ¬ (b = true ∧ j = k) := fun ⟨hb, e⟩ => held (e ▸ empty hb)
    rw [target_dismiss, if_neg stays]
    exact h.1 c hc ((c.flags_dismiss k b).2 ▸ hr) j hj
  · obtain ⟨c, hc, rfl⟩ := Option.map_eq_some_iff.1 hc'
    have held : w.holding j ≠ .none := held_of_affectedTo ha
    have stays : ¬ (b = true ∧ j = k) := fun ⟨hb, e⟩ => held (e ▸ empty hb)
    rw [target_dismiss, if_neg stays]
    exact h.2 c hc ((c.flags_dismiss k b).1 ▸ hr) p hp j l ha

end Sys2Proof.Machine
end

section
/-! SUPPORT. Who holds, who waits and who hears: counts, silence of agents out of service, and waiter lists (R24, R32), under the work of
the Recall Controller. -/

namespace Sys2Proof.Machine

open Sys2Proof.Safety

/-- The agent is out of service. -/
def AgentRecord.Absent (a : AgentRecord) : Prop := a.state = .offline ∨ a.state = .fenced

theorem AgentRecord.Absent.not_serves {a : AgentRecord} (h : a.Absent) : ¬ a.Serves := by
  rintro (e | e) <;> rcases h with h | h <;> rw [h] at e <;> cases e

/-- Counts, silence and waiter lists, while an event runs: an agent out of service may still be where the mode says it strays. -/
structure Roster (m : Mode) (d : Directory) : Prop where
  counts : CountsHoldings d
  silent : ∀ k, (d.agent k).Absent → (d.agent k).Silent
  released : ∀ k, (d.agent k).Absent → ∀ i w, d.window i = some w → m.strays k i ∨ w.holding k = .none
  waiters : ∀ i w, d.window i = some w → ∀ x ∈ w.waiters, m.strays x.agent i ∨ (d.agent x.agent).state = .online

/-- From `d` to `e` no holding rises, no waiter joins and no window appears. -/
def Directory.Sinks (d e : Directory) : Prop :=
  ∀ i w, e.window i = some w → ∃ v, d.window i = some v ∧ (∀ k, (w.holding k).rank ≤ (v.holding k).rank) ∧
    ∀ x ∈ w.waiters, x ∈ v.waiters

theorem Directory.Eases.sinks {o : Option SlotId} {d e : Directory} (h : d.Eases o e) : d.Sinks e := fun _ _ hw => by
  obtain ⟨v, hv, he⟩ := h.window_some hw
  exact ⟨v, hv, he.lowers, he.waiters⟩

theorem sinks_of_same {d e : Directory} (h : ∀ i, e.window i = d.window i) : d.Sinks e :=
  fun i w hw => ⟨w, h i ▸ hw, fun _ => le_rfl, fun _ hx => hx⟩

theorem sinks_modWindow (d : Directory) (i : SlotId) {f : Window → Window}
    (h : ∀ w k, ((f w).holding k).rank ≤ (w.holding k).rank) (g : ∀ w, ∀ x ∈ (f w).waiters, x ∈ w.waiters) :
    d.Sinks (d.modWindow i f) := fun j w hw => by
  rw [window_modWindow] at hw
  split at hw
  · obtain ⟨v, hv, rfl⟩ := Option.map_eq_some_iff.1 hw
    exact ⟨v, hv, h v, g v⟩
  · exact ⟨w, hw, fun _ => le_rfl, fun _ hx => hx⟩

theorem countsHoldings_modWindow {d : Directory} (h : CountsHoldings d) (i : SlotId) {f : Window → Window}
    (hf : ∀ w k, (f w).holding k = w.holding k) : CountsHoldings (d.modWindow i f) := by
  refine countsHoldings_congr h (fun k j => ?_) fun _ => rfl
  rw [heldAt, heldAt, window_modWindow]
  split
  · cases d.window j with
    | none => rfl
    | some w => simp [hf]
  · rfl

theorem countsHoldings_of_same {d e : Directory} (h : CountsHoldings d) (hw : ∀ i, e.window i = d.window i)
    (ha : ∀ k, e.agent k = d.agent k) : CountsHoldings e :=
  countsHoldings_congr h (fun k i => by rw [heldAt, heldAt, hw]) fun k => by rw [ha]

theorem countsHoldings_setHolding {d : Directory} (h : CountsHoldings d) (i : SlotId) (k : Agent) (x : Holding) :
    CountsHoldings (d.setHolding i k x) := by
  cases hw : d.window i with
  | none => simpa [Directory.setHolding, hw] using h
  | some w =>
    rw [setHolding_eq hw]
    exact countsHoldings_cell h hw (fun j hj => by simp [Window.holding, hj]) (by simp [Window.holding])

/-- With counts that stand, an agent with count 0 holds nowhere. -/
theorem holdingCount_eq_zero {d : Directory} (h : CountsHoldings d) {k : Agent} :
    (d.agent k).holdingCount = 0 ↔ ∀ i w, d.window i = some w → w.holding k = .none := by
  rw [h k, heldSlots_eq, List.length_eq_zero_iff, List.filter_eq_nil_iff]
  simp only [List.mem_finRange, forall_const, heldAt, Bool.not_eq_true, Option.any_eq_false, held_eq_false]

section
variable {m n : Mode} {d e : Directory}

theorem Roster.sink (h : Roster m d) (strays : n.strays = m.strays) (counts : CountsHoldings e)
    (states : ∀ k, (e.agent k).state = (d.agent k).state)
    (silent : ∀ k, (d.agent k).Absent → (d.agent k).Silent → (e.agent k).Silent) (sinks : d.Sinks e) : Roster n e where
  counts := counts
  silent k hk := by
    have hk : (d.agent k).Absent := by rwa [AgentRecord.Absent, states] at hk
    exact silent k hk (h.silent k hk)
  released k hk i w hw := by
    have hk : (d.agent k).Absent := by rwa [AgentRecord.Absent, states] at hk
    obtain ⟨v, hv, low, _⟩ := sinks i w hw
    rw [strays]
    refine (h.released k hk i v hv).imp_right fun hn => ?_
    have := low k
    rw [hn] at this
    exact rank_eq_zero.1 (Nat.le_zero.1 this)
  waiters i w hw x hx := by
    obtain ⟨v, hv, _, list⟩ := sinks i w hw
    rw [strays, states]
    exact h.waiters i v hv x (list x hx)

/-- One window is rewritten, its holdings as they were. -/
theorem Roster.modWindow (h : Roster m d) (strays : n.strays = m.strays) (i : SlotId) {f : Window → Window}
    (hf : ∀ w k, (f w).holding k = w.holding k) (list : ∀ w, ∀ x ∈ (f w).waiters, x ∈ w.waiters) : Roster n (d.modWindow i f) :=
  h.sink strays (countsHoldings_modWindow h.counts i hf) (fun _ => rfl) (fun _ _ => id)
    (sinks_modWindow d i (fun w k => by rw [hf]) list)

/-- Windows and agents as they were. -/
theorem Roster.same (h : Roster m d) (strays : n.strays = m.strays) (hw : ∀ i, e.window i = d.window i)
    (ha : ∀ k, e.agent k = d.agent k) : Roster n e :=
  h.sink strays (countsHoldings_of_same h.counts hw ha) (fun k => by rw [ha]) (fun k _ hs => by rwa [ha]) (sinks_of_same hw)

/-- A recall goes on, where no agent out of service is left. -/
theorem Roster.eases {o : Option SlotId} (h : Roster m d) (sets : ∀ i w, d.window i = some w → SetsSound w)
    (settled : ∀ i, o = some i → m.Settled i) (g : d.Eases o e) : Roster m e := by
  refine h.sink rfl (g.counts h.counts) g.states (fun k hk hs => g.notices k ?_) g.sinks
  rintro (hn | ⟨i, hi, w, hw, hold⟩)
  · exact hn hs
  · exact hold (sets i w hw) ((h.released k hk i w hw).resolve_left (settled i hi k))

theorem agent_strike (d : Directory) (k j : Agent) (i : SlotId) :
    (d.strike k i).agent j = { d.agent j with holdingCount := ((d.strike k i).agent j).holdingCount } :=
  agent_setHolding d i k j .none

theorem countsHoldings_strike (h : CountsHoldings d) (k : Agent) (i : SlotId) : CountsHoldings (d.strike k i) := by
  have struck := countsHoldings_setHolding h i k .none
  have unpinned := countsHoldings_modWindow struck i (f := fun w => w.setPins k 0) fun _ _ => rfl
  have left := countsHoldings_modWindow unpinned i (f := fun w => (w.unlist k).unreserve k) fun _ _ => rfl
  exact countsHoldings_modWindow left i (f := fun w => w.modContext (·.strike k)) fun _ _ => rfl

theorem waiters_strike (w : Window) (k : Agent) : (w.strike k).waiters = w.waiters.filter (·.agent != k) := rfl

/-- The agent struck from a window strays there no more. -/
theorem Roster.strike (h : Roster m d) (k : Agent) (i : SlotId)
    (strays : ∀ a j, n.strays a j ↔ m.strays a j ∧ ¬ (a = k ∧ j = i)) : Roster n (d.strike k i) where
  counts := countsHoldings_strike h.counts k i
  silent j hj := by
    rw [agent_strike] at hj ⊢
    exact h.silent j hj
  released j hj l w hw := by
    rw [agent_strike] at hj
    rw [strays]
    rw [window_strike] at hw
    split at hw
    · obtain ⟨v, hv, rfl⟩ := Option.map_eq_some_iff.1 hw
      rw [holding_strike]
      by_cases e : j = k
      · exact .inr (by rw [if_pos e])
      · rw [if_neg e]
        exact (h.released j hj l v hv).imp_left fun x => ⟨x, fun y => e y.1⟩
    · next hl => exact (h.released j hj l w hw).imp_left fun x => ⟨x, fun y => hl y.2⟩
  waiters l w hw x hx := by
    rw [agent_strike, strays]
    rw [window_strike] at hw
    split at hw
    · obtain ⟨v, hv, rfl⟩ := Option.map_eq_some_iff.1 hw
      obtain ⟨hx, hne⟩ := List.mem_filter.1 ((waiters_strike v k) ▸ hx)
      exact (h.waiters l v hv x hx).imp_left fun y => ⟨y, fun z => by simp [z.1] at hne⟩
    · next hl => exact (h.waiters l w hw x hx).imp_left fun y => ⟨y, fun z => hl z.2⟩

theorem agent_endWatch (d : Directory) (i : SlotId) (k : Agent) : (d.endWatch i).agent k = d.agent k := by
  unfold Directory.endWatch
  split <;> rfl

theorem agent_completeRetirement {i : SlotId} {w : Window} (hw : d.window i = some w) (k : Agent) :
    (d.completeRetirement i).agent k = (d.retirementQuiet i).agent k := by
  have ended := completeRetirement_eq hw
  generalize d.completeRetirement i = x, d.retirementQuiet i = y at ended
  obtain ⟨_, rfl⟩ | ⟨r, _, rfl⟩ := ended
  · exact agent_endWatch y i k
  · exact agent_endWatch y i k

/-- A window without holders goes, with its watch and its RETIRE (R137). -/
theorem Roster.completeRetirement (h : Roster m d) {i : SlotId} {w : Window} (hw : d.window i = some w)
    (empty : ∀ k, w.holding k = .none) : Roster m (d.completeRetirement i) := by
  have closed : Roster m (d.modWindow i fun w => { w with context := none }) :=
    h.modWindow rfl i (fun _ _ => rfl) fun _ _ hx => hx
  have quiet : Roster m (d.retirementQuiet i) := by
    have eased := retirementQuiet_eases d i none
    exact closed.sink rfl (eased.counts closed.counts) eased.states
      (fun k _ hs => eased.notices k fun hn => hn.elim (fun x => x hs) fun ⟨_, x, _⟩ => nomatch x) eased.sinks
  obtain ⟨v, hv, he⟩ := (retirementQuiet_eases d i none).window_some' (i := i) (w := { w with context := none }) (by simp [hw])
  have gone : ∀ k, v.holding k = .none := fun k => by
    have := he.lowers k
    rw [show Window.holding { w with context := none } k = .none from empty k] at this
    exact rank_eq_zero.1 (Nat.le_zero.1 this)
  have windows := window_completeRetirement hw
  have agents := agent_completeRetirement hw
  refine quiet.sink rfl (countsHoldings_congr quiet.counts (fun k j => ?_) fun k => by rw [agents]) (fun k => by rw [agents])
    (fun k _ hs => by rwa [agents]) fun j u hu => ?_
  · rw [heldAt, heldAt, windows]
    split
    · next e =>
      subst e
      simp [hv, gone, Holding.held]
    · rfl
  · rw [windows] at hu
    split at hu
    · cases hu
    · exact ⟨u, hu, fun _ => le_rfl, fun _ hx => hx⟩

/-- Less is under way than the mode says. -/
theorem Roster.relax (h : Roster m d) (g : m.Relaxes d n) : Roster n d where
  counts := h.counts
  silent := h.silent
  released k hk i w hw := by
    rcases h.released k hk i w hw with hs | hn
    · exact (g.strays k i hs).imp_right fun keep => (keep w hw).1.resolve_right hk.not_serves
    · exact .inr hn
  waiters i w hw x hx := by
    rcases h.waiters i w hw x hx with hs | ho
    · exact .inl ((g.strays x.agent i hs).resolve_right fun keep => (keep w hw).2 x hx rfl)
    · exact .inr ho

end

end Sys2Proof.Machine
end

section
/-! SUPPORT. The laws of recalls under the Recall Controller's work. -/

namespace Sys2Proof.Machine

open Sys2Proof.Safety

/-- The laws of recalls, while an event runs. -/
structure RecallInv (m : Mode) (d : Directory) : Prop where
  parts : EveryWindow PartsFollowCauses d
  sound : EverySlot (Window.Sound m) d
  sought : EverySlot (fun _ => Window.Sought) d
  roster : Roster m d

theorem sound_work {m n : Mode} {d e : Directory} (h : Work m d n e) (g : RecallInv m d) : EverySlot (Window.Sound n) e := by
  have s := g.sound
  cases h with
  | ease _ he => exact s.eases he fun _ _ _ e => Window.Sound.eases e
  | @create _ i cause force =>
    refine s.modWindow (fun _ _ _ => id) fun w _ hs => ?_
    have sets := Window.SameSets.of_blank (w := w) cause force none
    exact ⟨fun _ c hc => by cases hc; exact causeless_addCause _ _, sets.sets hs.sets, sets.allowed rfl hs.allowed, hs.idle⟩
  | strike k i frays stays =>
    refine s.strike (fun j hj w hs => hs.mode (fun x => ?_) fun x => ?_) fun w hw hs => ?_
    · cases frays
      · exact x
      · exact .inl x
    · cases frays <;> exact x
    · refine ⟨fun hf => ?_, sets_strike hs.sets k, allowed_strike hs.allowed k, fun hu => hs.idle fun x => hu ?_⟩
      · cases frays
        · exact causes_strike (hs.causes hf) fun c hc => stays rfl c (by simp [context_eq, hw, hc])
        · exact absurd (.inr rfl) hf
      · cases frays <;> exact x
  | @dismiss _ k b i empty =>
    refine s.modWindow (fun j hj w hs => hs.fray i) fun w hw hs => ?_
    have none : b = true → w.holding k = .none := fun hb => (holdingCount_eq_zero g.roster.counts).1 (empty hb) i w hw
    exact ⟨fun hf => absurd (.inr rfl) hf, sets_dismiss hs.sets none, hs.allowed, hs.idle⟩
  | drop i =>
    refine s.modWindow (fun j hj w hs => hs.mend hj) fun w _ hs => ?_
    exact .of_none rfl hs.allowed hs.idle
  | @apply _ i w c hw hc hrev hret ended =>
    refine s.applyRevision hw (fun j hj w hs => (hs.fray i).unarm i) (fun _ hs => (hs.fray i).unarm i) fun p hp hs => ?_
    have sets : w.SameSets (w.applied p) :=
        ⟨rfl, rfl, (Window.SameSets.of_modContext (w := w) (f := fun c => { c with revision := false })
          fun _ => ⟨rfl, rfl⟩).targets⟩
    exact ⟨fun hf => absurd (.inr rfl) hf, sets.sets hs.sets,
      allowed_of_applied hs.sets (g.sought i w hw).2 hs.allowed hc ended hrev hp, fun hu => absurd (.inr rfl) hu⟩
  | rearm i now =>
    refine s.modWindow (fun j hj w hs => hs.rearm hj) fun w _ hs => ?_
    exact ⟨hs.causes, hs.sets, hs.allowed, fun _ => idleNeedsLimit_armIdle w now⟩
  | retire hw => exact s.completeRetirement hw fun _ _ _ e => Window.Sound.eases e
  | relax h =>
    refine s.mono fun j w hw hs => ⟨fun hf => ?_, hs.sets, hs.allowed, fun hu => hs.idle fun x => hu (h.unarmed j x)⟩
    by_cases hm : m.frayed j
    · exact (h.frayed j hm).resolve_left hf w hw
    · exact hs.causes hm

theorem sought_work {m n : Mode} {d e : Directory} (h : Work m d n e) (g : RecallInv m d) :
    EverySlot (fun _ => Window.Sought) e := by
  have s := g.sought
  cases h with
  | ease _ he => exact s.eases he fun _ _ _ e => Window.Sought.eases e
  | create force free =>
    refine s.modWindow (fun _ _ _ => id) fun w _ _ => ⟨fun c hc hr => ?_, fun c hc hr => ?_⟩
    · cases hc
      rw [(parts_started free force).2] at hr
      cases hr
    · cases hc
      rw [(parts_started free force).1] at hr
      cases hr
  | strike k i => exact s.strike (fun _ _ _ => id) fun w _ hs => sought_strike hs k
  | dismiss i empty =>
    exact s.modWindow (fun _ _ _ => id) fun w hw hs =>
      sought_dismiss hs fun hb => (holdingCount_eq_zero g.roster.counts).1 (empty hb) i w hw
  | drop => exact s.modWindow (fun _ _ _ => id) fun w _ _ => sought_of_none rfl
  | @apply _ i w c hw hc _ hret =>
    refine s.applyRevision hw (fun _ _ _ => id) (fun _ => id) fun p _ _ => ⟨fun x hx hr => ?_, fun _ _ _ _ hp => nomatch hp⟩
    rw [Window.applied, Window.modContext, hc] at hx
    cases hx
    rw [hret] at hr
    cases hr
  | rearm i now => exact s.modWindow (fun _ _ _ => id) fun w _ hs => hs.same rfl rfl rfl rfl
  | retire hw => exact s.completeRetirement hw fun _ _ _ e => Window.Sought.eases e
  | relax => exact s

theorem roster_work {m n : Mode} {d e : Directory} (h : Work m d n e) (g : RecallInv m d) : Roster n e := by
  have r := g.roster
  cases h with
  | ease settled he => exact r.eases (fun i w hw => (g.sound i w hw).sets) settled he
  | strike k i frays => exact r.strike k i fun a j => by cases frays <;> exact Iff.rfl
  | @apply _ i w c hw =>
    cases hp : w.revision with
    | none =>
      rw [applyRevision_none hw hp]
      exact r.same rfl (fun _ => rfl) fun _ => rfl
    | some p =>
      obtain ⟨x, _, e⟩ := applyRevision_some hw hp
      rw [e, ← modWindow_eq_withWindow (fun w => w.applied p) hw]
      have applied : Roster ((m.fray i).unarm i) (d.modWindow i fun w => w.applied p) :=
        r.modWindow (n := (m.fray i).unarm i) (f := fun w => w.applied p) rfl i (fun _ _ => rfl) fun _ _ hx => hx
      exact applied.same rfl (fun _ => rfl) fun _ => rfl
  | retire hw hc hr ended =>
    exact r.completeRetirement hw (no_holder_of_retired (g.sound _ _ hw).sets (g.sought _ _ hw).1 hc ended hr)
  | relax h => exact r.relax h
  | create => exact r.modWindow rfl _ (fun _ _ => rfl) fun _ _ hx => hx
  | @dismiss _ k b i =>
    exact r.modWindow (n := m.fray i) (f := fun w => w.modContext (·.dismiss k b)) rfl i (fun _ _ => rfl) fun _ _ hx => hx
  | drop i => exact r.modWindow (n := m.mend i) (f := fun w => { w with context := none }) rfl i (fun _ _ => rfl) fun _ _ hx => hx
  | rearm i now => exact r.modWindow (n := m.rearm i) (f := fun w => w.armIdle now) rfl i (fun _ _ => rfl) fun _ _ hx => hx

end Sys2Proof.Machine
end

section
/-! SUPPORT. The laws of recalls under every phase, and so under every event. -/

namespace Sys2Proof.Machine

open Sys2Proof.Safety

/-! ### Causes handed over by a command (R124, R125, R135) -/

/-- REVISION handed over: the holdings that the new fields affect are asked for. -/
theorem sought_of_revise {v w : Window} {p : PendingRevision} (e : (w.reviseStarted p).Eases v)
    (calm : w.context.any (·.retire) = false) (asked : ∀ k l, (k, l) ∈ w.affected p.fields → v.Asks k l) : v.Sought := by
  have retire : v.context.any (·.retire) = false := by
    rw [e.retiring]
    cases hc : w.context with
    | none => simp [Window.reviseStarted, hc, RecallContext.blank, RecallContext.addCause]
    | some c => simpa [Window.reviseStarted, hc, RecallContext.addCause] using calm
  refine ⟨fun c hc hr => ?_, fun c hc _ q hq k l ha => ?_⟩
  · rw [show v.context = some c from hc, Option.any_some, hr] at retire
    cases retire
  · have hq : p = q := Option.some.inj (e.revision.symm.trans hq)
    subst hq
    have before := affectedTo_of_lower (v := w) e.fields (e.lowers k) ha
    obtain ⟨t, ht, low⟩ := asked k l (mem_affected_iff.2 before) (held_of_affectedTo ha)
    exact ⟨t, by simpa [Window.target, show v.context = some c from hc] using ht, low⟩

theorem mem_allHolders_iff {w : Window} {k : Agent} : (k, Level.none) ∈ w.allHolders ↔ w.holding k ≠ .none := by
  simp only [Window.allHolders, List.mem_filterMap, List.mem_finRange, true_and, held_eq_true]
  constructor
  · rintro ⟨j, hj⟩
    split at hj
    · next hn =>
      cases hj
      exact hn
    · cases hj
  · exact fun hn => ⟨k, if_pos hn⟩

/-- RETIRE handed over: every holder is asked for. -/
theorem sought_of_retire {v w : Window} {t : Tag} {force : Bool} (parts : PartsFollowCauses w)
    (e : (w.retireStarted t force).Eases v) (asked : ∀ k l, (k, l) ∈ w.allHolders → v.Asks k l) : v.Sought := by
  have none : v.revision = none := e.revision.trans (parts.superseded force).1
  refine ⟨fun c hc _ k hk => ?_, fun c _ _ q hq => ?_⟩
  · have held := held_eq_true.1 hk
    have before : w.holding k ≠ .none := by
      rw [← (sameSets_retireStarted w t force).holding k]
      exact held_before (e.lowers k) held
    obtain ⟨l, hl, low⟩ := asked k .none (mem_allHolders_iff.2 before) held
    have target : look c.targets k = some l := by simpa [Window.target, show v.context = some c from hc] using hl
    cases l with
    | none => exact target
    | shared => simp [Level.holding, Holding.rank] at low
  · rw [none] at hq
    cases hq

/-- With one window asked anew, the others stay as sought. -/
theorem sought_asked {d x e : Directory} {i : SlotId} (s : EverySlot (fun _ => Window.Sought) d)
    (others : ∀ j, j ≠ i → x.window j = d.window j) (eased : x.Eases (some i) e)
    (here : ∀ v, e.window i = some v → v.Sought) : EverySlot (fun _ => Window.Sought) e := fun j v hv => by
  by_cases hj : j = i
  · subst hj
    exact here v hv
  · obtain ⟨u, hu, he⟩ := eased.window_some hv
    exact (s j u (others j hj ▸ hu)).eases he

theorem Window.Sound.started {m : Mode} {i : SlotId} {v w : Window} (h : w.Sound m i) (same : w.SameSets v)
    (fields : v.fields = w.fields) (idle : v.idle = w.idle) (cause : ∀ c, v.context = some c → c.causeless = false) :
    v.Sound m i where
  causes _ := cause
  sets := same.sets h.sets
  allowed := same.allowed fields h.allowed
  idle hu := by
    have := h.idle hu
    simpa only [IdleNeedsLimit, fields, idle] using this

theorem Window.Sound.reviseStarted {m : Mode} {i : SlotId} {w : Window} (h : w.Sound m i)
    (p : PendingRevision) : (w.reviseStarted p).Sound m i :=
  h.started (sameSets_reviseStarted w p) rfl rfl fun c hc => by
    cases hc
    exact causeless_addCause _ _

theorem Window.Sound.retireStarted {m : Mode} {i : SlotId} {w : Window} (h : w.Sound m i)
    (t : Tag) (force : Bool) : (w.retireStarted t force).Sound m i := by
  have rest : (w.superseded force).fields = w.fields ∧ (w.superseded force).idle = w.idle := by
    unfold Window.superseded
    split <;> exact ⟨rfl, rfl⟩
  refine h.started (sameSets_retireStarted w t force) rest.1 rest.2 fun c hc => ?_
  cases hc
  exact causeless_addCause _ _

/-! ### Windows -/

/-- Between phases that leave the slots alone, the mode's other parts do not count. -/
theorem EverySlot.sound {m n : Mode} {d : Directory} (s : EverySlot (Window.Sound m) d) (frayed : n.frayed = m.frayed)
    (unarmed : n.unarmed = m.unarmed) : EverySlot (Window.Sound n) d :=
  s.mono fun _ _ _ hs => hs.mode (fun x => frayed ▸ x) fun x => unarmed ▸ x

theorem EverySlot.elsewhere {m n : Mode} {d e : Directory} (s : EverySlot (Window.Sound m) d) (hw : ∀ j, e.window j = d.window j)
    (frayed : n.frayed = m.frayed) (unarmed : n.unarmed = m.unarmed) : EverySlot (Window.Sound n) e :=
  (s.sound frayed unarmed).congr hw

theorem sound_phase {m n : Mode} {d e : Directory} (h : Phase m d n e) (g : RecallInv m d) : EverySlot (Window.Sound n) e := by
  have s := g.sound
  cases h with
  | work h => exact sound_work h g
  | enlist kind =>
    refine s.modWindow (fun _ _ _ => id) fun w _ hs => ?_
    unfold Window.enlist
    split <;> exact hs.same rfl rfl rfl rfl rfl
  | @raise _ _ i w k x hw opened _ cacheable allowed =>
    refine s.setHolding fun v hv hs => ?_
    rw [hw] at hv
    cases hv
    refine .of_none opened (fun j hj => ?_) hs.idle
    rw [holding_setHolding] at hj ⊢
    by_cases e : j = k
    · subst e
      rw [if_pos rfl]
      exact ⟨cacheable, allowed⟩
    · rw [if_neg e] at hj ⊢
      exact hs.allowed j hj
  | @endWatch _ _ i r _ =>
    have ended := s.modWindow (i := i) (Q := Window.Sound m) (f := fun w => { w with watch := none }) (fun _ _ _ => id)
      fun w _ hs => hs.same rfl rfl rfl rfl rfl
    exact ended.congr fun _ => rfl
  | @watch _ i _ x _ _ _ =>
    have watched := (s.sound (n := .whole) rfl rfl).modWindow (i := i) (Q := Window.Sound .whole)
      (f := fun w => { w with watch := some x }) (fun _ _ _ => id) fun w _ hs => hs.same rfl rfl rfl rfl rfl
    exact watched.congr fun _ => rfl
  | openWindow f now =>
    refine s.withWindow (fun _ _ _ => id) (.of_none rfl (fun k hk => ?_) fun _ => idleNeedsLimit_armIdle _ now)
    simp [FieldSet.opened, Window.holding, Window.armIdle, Holding.held] at hk
  | @reviseNow _ _ i w f hw opened none =>
    refine s.modWindow (fun _ _ _ => id) fun v hv hs => ?_
    rw [hw] at hv
    cases hv
    refine .of_none opened (fun k hk => allowed_of_unaffected hs.allowed hk fun l ha => ?_) fun _ => idleNeedsLimit_armIdle _ _
    have : (k, l) ∈ w.affected f := mem_affected_iff.2 ha
    rw [none] at this
    cases this
  | @revise _ _ i w p hw calm _ _ eased =>
    refine EverySlot.eases ?_ eased fun _ _ _ e => Window.Sound.eases e
    rw [reviseStarted_eq p hw]
    have s' := s.sound (n := .airborne { tag := p.tag, work := .revise i }) rfl rfl
    exact s'.withWindow (fun _ _ _ => id) ((s' i w hw).reviseStarted p)
  | @retire _ _ i w t force hw _ _ eased =>
    refine EverySlot.eases ?_ eased fun _ _ _ e => Window.Sound.eases e
    obtain ⟨d₁, h₁, e₁⟩ := retireStarted_eq t force hw
    have s' := s.sound (n := .airborne { tag := t, work := .retire i }) rfl rfl
    have s₁ : EverySlot (Window.Sound (.airborne { tag := t, work := .retire i })) d₁ := by
      obtain ⟨_, rfl⟩ | ⟨_, _, _, _, rfl⟩ := h₁
      · exact s'
      · exact s'.congr fun _ => rfl
    rw [e₁]
    exact s₁.withWindow (fun _ _ _ => id) ((s' i w hw).retireStarted t force)
  | @abortRevision _ i t =>
    refine (s.sound (n := .aborting t) rfl rfl).modWindow (fun _ _ _ hs => hs.fray i) fun w _ hs => ?_
    have sets : w.SameSets ({ w with revision := none }.modContext fun c => { c with revision := false, force := false }) :=
      ⟨rfl, rfl, (Window.SameSets.of_modContext (w := w) (f := fun c => { c with revision := false, force := false })
        fun _ => ⟨rfl, rfl⟩).targets⟩
    exact ⟨fun hf => absurd (.inr rfl) hf, sets.sets hs.sets, sets.allowed rfl hs.allowed, hs.idle⟩
  | endDetach k x =>
    have same : ∀ j, (d.endDetach k x).window j = d.window j := fun j => by
      unfold Directory.endDetach
      split <;> rfl
    exact (s.sound (n := n) rfl rfl).congr same
  | _ => exact s.elsewhere (fun _ => rfl) rfl rfl

theorem sought_phase {m n : Mode} {d e : Directory} (h : Phase m d n e) (g : RecallInv m d) :
    EverySlot (fun _ => Window.Sought) e := by
  have s := g.sought
  cases h with
  | work h => exact sought_work h g
  | enlist kind =>
    refine s.modWindow (fun _ _ _ => id) fun w _ hs => ?_
    unfold Window.enlist
    split <;> exact hs.same rfl rfl rfl rfl
  | raise hw opened =>
    refine s.setHolding fun v hv _ => ?_
    rw [hw] at hv
    cases hv
    exact sought_of_none opened
  | @endWatch _ _ i r _ =>
    have ended := s.modWindow (i := i) (Q := fun _ => Window.Sought) (f := fun w => { w with watch := none }) (fun _ _ _ => id)
      fun w _ hs => hs.same rfl rfl rfl rfl
    exact ended.congr fun _ => rfl
  | @watch _ i _ x _ _ _ =>
    have watched := s.modWindow (i := i) (Q := fun _ => Window.Sought) (f := fun w => { w with watch := some x })
      (fun _ _ _ => id) fun w _ hs => hs.same rfl rfl rfl rfl
    exact watched.congr fun _ => rfl
  | openWindow => exact s.withWindow (fun _ _ _ => id) (sought_of_none rfl)
  | reviseNow _ hw opened =>
    refine s.modWindow (fun _ _ _ => id) fun v hv _ => ?_
    rw [hw] at hv
    cases hv
    exact sought_of_none opened
  | @revise _ _ i w p hw calm _ _ eased asked =>
    rw [reviseStarted_eq p hw] at eased
    refine sought_asked s (fun j hj => by simp [hj]) eased fun v hv => ?_
    obtain ⟨u, hu, he⟩ := eased.window_some hv
    rw [window_withWindow, if_pos rfl] at hu
    cases hu
    exact sought_of_revise he calm.1 (asked v hv)
  | @retire _ _ i w t force hw _ _ eased asked =>
    obtain ⟨d₁, h₁, e₁⟩ := retireStarted_eq t force hw
    have same : ∀ j, d₁.window j = d.window j := fun j => by
      obtain ⟨_, rfl⟩ | ⟨_, _, _, _, rfl⟩ := h₁ <;> rfl
    rw [e₁] at eased
    refine sought_asked s (fun j hj => by simp [hj, same]) eased fun v hv => ?_
    obtain ⟨u, hu, he⟩ := eased.window_some hv
    rw [window_withWindow, if_pos rfl] at hu
    cases hu
    exact sought_of_retire (g.parts i w hw) he (asked v hv)
  | abortRevision =>
    refine s.modWindow (fun _ _ _ => id) fun w _ hs => ⟨fun c' hc' hr k hk => ?_, fun _ _ _ _ hp => nomatch hp⟩
    obtain ⟨c, hc, rfl⟩ := Option.map_eq_some_iff.1 hc'
    exact hs.1 c hc hr k hk
  | endDetach k x =>
    refine s.congr fun j => ?_
    unfold Directory.endDetach
    split <;> rfl
  | _ => exact s.congr fun _ => rfl

end Sys2Proof.Machine
end

section
/-! SUPPORT. Who holds, who waits and who hears, under every phase; and with it the laws of recalls under every event. -/

namespace Sys2Proof.Machine

open Sys2Proof.Safety

theorem agent_of_enlisted {w : Window} {k : Agent} {kind : AccessKind} {x : Waiter} (h : x ∈ (w.enlist k kind).waiters) :
    x.agent = k ∨ ∃ y ∈ w.waiters, y.agent = x.agent := by
  unfold Window.enlist at h
  split at h
  · obtain ⟨y, hy, rfl⟩ := List.mem_map.1 h
    refine .inr ⟨y, hy, ?_⟩
    split <;> rfl
  · rcases List.mem_append.1 h with h | h
    · exact .inr ⟨x, h, rfl⟩
    · exact .inl (by rw [List.mem_singleton.1 h])

theorem holding_enlist (w : Window) (k j : Agent) (kind : AccessKind) : (w.enlist k kind).holding j = w.holding j := by
  unfold Window.enlist
  split <;> rfl

theorem holding_opened (f : FieldSet) (now : Tick) (k : Agent) : (f.opened now).holding k = .none := by
  simp [FieldSet.opened, Window.holding, Window.armIdle]

section
variable {m n : Mode} {d e : Directory}

/-- An ONLINE agent joins a list. -/
theorem Roster.enlist (h : Roster m d) (i : SlotId) {k : Agent} (kind : AccessKind) (online : (d.agent k).state = .online) :
    Roster m (d.modWindow i (·.enlist k kind)) where
  counts := countsHoldings_modWindow h.counts i fun w j => holding_enlist w k j kind
  silent := h.silent
  released j hj l w hw := by
    rw [window_modWindow] at hw
    split at hw
    · obtain ⟨v, hv, rfl⟩ := Option.map_eq_some_iff.1 hw
      rw [holding_enlist]
      exact h.released j hj l v hv
    · exact h.released j hj l w hw
  waiters l w hw x hx := by
    rw [window_modWindow] at hw
    split at hw
    · obtain ⟨v, hv, rfl⟩ := Option.map_eq_some_iff.1 hw
      rcases agent_of_enlisted hx with e | ⟨y, hy, e⟩
      · exact .inr (e ▸ online)
      · exact e ▸ h.waiters l v hv y hy
    · exact h.waiters l w hw x hx

/-- An agent in service comes to hold. -/
theorem Roster.setHolding (h : Roster m d) (i : SlotId) {k : Agent} (x : Holding) (serves : (d.agent k).Serves) :
    Roster m (d.setHolding i k x) where
  counts := countsHoldings_setHolding h.counts i k x
  silent j hj := by
    rw [agent_setHolding d i k j x] at hj ⊢
    exact h.silent j hj
  released j hj l w hw := by
    rw [agent_setHolding d i k j x] at hj
    have hne : j ≠ k := by
      rintro rfl
      exact hj.not_serves serves
    rw [window_setHolding] at hw
    split at hw
    · obtain ⟨v, hv, rfl⟩ := Option.map_eq_some_iff.1 hw
      rw [holding_setHolding, if_neg hne]
      exact h.released j hj l v hv
    · exact h.released j hj l w hw
  waiters l w hw y hy := by
    rw [agent_setHolding d i k y.agent x]
    rw [window_setHolding] at hw
    split at hw
    · obtain ⟨v, hv, rfl⟩ := Option.map_eq_some_iff.1 hw
      exact h.waiters l v hv y hy
    · exact h.waiters l w hw y hy

/-- An empty window opens. -/
theorem Roster.openWindow (h : Roster m d) {i : SlotId} (f : FieldSet) (now : Tick) (vacant : d.window i = none) :
    Roster m (d.fillSlot i (f.opened now)) where
  counts := by
    refine countsHoldings_congr h.counts (fun k j => ?_) fun _ => rfl
    rw [heldAt, heldAt, window_fillSlot]
    split
    · next e =>
      subst e
      simp [vacant, holding_opened, Holding.held]
    · rfl
  silent := h.silent
  released k hk j w hw := by
    rw [window_fillSlot] at hw
    split at hw
    · cases hw
      exact .inr (holding_opened f now k)
    · exact h.released k hk j w hw
  waiters j w hw x hx := by
    rw [window_fillSlot] at hw
    split at hw
    · cases hw
      cases hx
    · exact h.waiters j w hw x hx

/-- One agent changes its state. -/
theorem Roster.modAgent (h : Roster m d) {k : Agent} {f : AgentRecord → AgentRecord}
    (count : (f (d.agent k)).holdingCount = (d.agent k).holdingCount) (strays : ∀ a i, m.strays a i → n.strays a i)
    (absent : (f (d.agent k)).Absent →
      (f (d.agent k)).Silent ∧ ∀ i w, d.window i = some w → n.strays k i ∨ w.holding k = .none)
    (lists : ∀ i w, d.window i = some w → ∀ x ∈ w.waiters, x.agent = k → n.strays k i ∨ (f (d.agent k)).state = .online) :
    Roster n (d.modAgent k f) where
  counts := by
    refine countsHoldings_congr h.counts (fun _ _ => rfl) fun j => ?_
    rw [agent_modAgent]
    split
    · next e => subst e; exact count
    · rfl
  silent j hj := by
    rw [agent_modAgent] at hj ⊢
    split at hj
    · next e =>
      subst e
      rw [if_pos rfl]
      exact (absent hj).1
    · next e =>
      rw [if_neg e]
      exact h.silent j hj
  released j hj i w hw := by
    rw [agent_modAgent] at hj
    split at hj
    · next e =>
      subst e
      exact (absent hj).2 i w hw
    · exact (h.released j hj i w hw).imp_left (strays j i)
  waiters i w hw x hx := by
    rw [agent_modAgent]
    split
    · next e => rw [e]; exact lists i w hw x hx e
    · exact (h.waiters i w hw x hx).imp_left (strays x.agent i)

theorem Roster.endDetach (h : Roster m d) (k : Agent) (x : Status) : Roster m (d.endDetach k x) := by
  unfold Directory.endDetach
  split
  · exact h
  · have ended : Roster m (d.modAgent k fun a => { a with detach := none }) := by
      refine h.modAgent rfl (fun _ _ => id) (fun ha => ⟨h.silent k ha, h.released k ha⟩) fun i w hw y hy e => ?_
      exact e ▸ h.waiters i w hw y hy
    exact ended.same rfl (fun _ => rfl) fun _ => rfl

end

theorem roster_phase {m n : Mode} {d e : Directory} (h : Phase m d n e) (g : RecallInv m d) : Roster n e := by
  have r := g.roster
  have sets : ∀ i w, d.window i = some w → SetsSound w := fun i w hw => (g.sound i w hw).sets
  cases h with
  | work h => exact roster_work h g
  | @enlist _ _ i k kind online => exact r.enlist i kind online
  | @raise _ _ i w k x _ _ serves => exact r.setHolding i x serves
  | @endWatch _ _ i _ _ =>
    have ended := r.modWindow (n := m) (f := fun w => { w with watch := none }) rfl i (fun _ _ => rfl) fun _ _ hx => hx
    exact ended.same rfl (fun _ => rfl) fun _ => rfl
  | @watch _ i _ x _ _ _ =>
    have watched := r.modWindow (n := .command) (f := fun w => { w with watch := some x }) rfl i (fun _ _ => rfl) fun _ _ hx => hx
    exact watched.same rfl (fun _ => rfl) fun _ => rfl
  | openWindow f now vacant => exact r.openWindow f now vacant
  | reviseNow => exact r.modWindow rfl _ (fun _ _ => rfl) fun _ _ hx => hx
  | @revise _ _ i w p hw calm _ _ eased =>
    have started : Roster .command (withWindow d i (w.reviseStarted p)) := by
      rw [← modWindow_eq_withWindow (fun w => w.reviseStarted p) hw]
      exact r.modWindow rfl i (fun _ _ => rfl) fun _ _ hx => hx
    rw [reviseStarted_eq p hw] at eased
    have soundStarted := g.sound.withWindow (fun _ _ _ => id) ((g.sound i w hw).reviseStarted p)
    exact (started.eases (fun j v hv => (soundStarted j v hv).sets) (fun j _ => Mode.settled_command j) eased).same rfl
      (fun _ => rfl) fun _ => rfl
  | @retire _ _ i w t force hw _ _ eased =>
    obtain ⟨d₁, h₁, e₁⟩ := retireStarted_eq t force hw
    have same : (∀ j, d₁.window j = d.window j) ∧ ∀ k, d₁.agent k = d.agent k := by
      obtain ⟨_, rfl⟩ | ⟨_, _, _, _, rfl⟩ := h₁ <;> exact ⟨fun _ => rfl, fun _ => rfl⟩
    have started : Roster .command (withWindow d₁ i (w.retireStarted t force)) := by
      rw [← modWindow_eq_withWindow (fun w => w.retireStarted t force) ((same.1 i).trans hw)]
      exact (r.same (n := .command) rfl same.1 same.2).modWindow rfl i
        (fun w k => (sameSets_retireStarted w t force).holding k) fun _ _ hx => nomatch hx
    rw [e₁] at eased
    have soundStarted := (g.sound.congr same.1).withWindow (fun _ _ _ => id) ((g.sound i w hw).retireStarted t force)
    exact (started.eases (fun j v hv => (soundStarted j v hv).sets) (fun j _ => Mode.settled_command j) eased).same rfl
      (fun _ => rfl) fun _ => rfl
  | @abortRevision _ i t =>
    exact r.modWindow (n := (Mode.aborting t).fray i) rfl i
      (f := fun w => { w with revision := none }.modContext fun c => { c with revision := false, force := false })
      (fun _ _ => rfl) fun _ _ hx => hx
  | @admission _ k x out =>
    exact r.modAgent rfl (fun _ _ => id) (fun ha => ha.elim nofun nofun) fun _ _ _ _ _ _ => .inr rfl
  | detach online =>
    exact r.modAgent rfl (fun _ _ => False.elim) (fun ha => ha.elim nofun nofun) fun _ _ _ _ _ _ => .inl ⟨rfl, trivial⟩
  | depart settled out silent detach count =>
    exact r.modAgent count (fun a i x => absurd x (settled i a)) (fun _ => ⟨silent, fun _ _ _ => .inl ⟨rfl, trivial⟩⟩)
      fun _ _ _ _ _ _ => .inl ⟨rfl, trivial⟩
  | @vacate _ _ k empty offline =>
    refine r.modAgent rfl (fun _ _ => id) (fun _ => ⟨⟨rfl, rfl⟩, fun i w hw => ?_⟩) fun i w hw x hx e => ?_
    · exact .inr ((holdingCount_eq_zero r.counts).1 empty i w hw)
    · exact .inl (e ▸ (r.waiters i w hw x hx).resolve_right (e ▸ offline))
  | rejoin k => exact r.modAgent rfl (fun _ _ => id) (fun ha => ha.elim nofun nofun) fun _ _ _ _ _ _ => .inr rfl
  | endDetach k x => exact (r.same (n := n) rfl (fun _ => rfl) fun _ => rfl).endDetach k x
  | _ => exact r.same rfl (fun _ => rfl) fun _ => rfl

theorem recallInv_phase {m n : Mode} {d e : Directory} (h : Phase m d n e) (g : RecallInv m d) : RecallInv n e :=
  ⟨parts_phase h g.parts, sound_phase h g, sought_phase h g, roster_phase h g⟩

/-- Between two events the laws are those of the statement. -/
theorem recallInv_iff {d : Directory} : RecallInv .whole d ↔ RecallLaws d := by
  constructor
  · rintro ⟨parts, sound, sought, roster⟩
    refine ⟨parts, fun i w hw => (sound i w hw).causes id, fun i w hw => (sound i w hw).sets, fun i w hw => (sought i w hw).1,
      fun i w hw => (sought i w hw).2, fun i w hw => (sound i w hw).allowed, fun i w hw => (sound i w hw).idle id, roster.counts,
      fun k hk => ?_, fun i w hw x hx => (roster.waiters i w hw x hx).resolve_left id⟩
    obtain ⟨queue, backlog⟩ := roster.silent k hk
    exact ⟨queue, backlog, (holdingCount_eq_zero roster.counts).2 fun i w hw => (roster.released k hk i w hw).resolve_left id⟩
  · rintro ⟨parts, causes, sets, retiring, revising, allowed, idle, counts, silent, waiters⟩
    refine ⟨parts, fun i w hw => ⟨fun _ => causes i w hw, sets i w hw, allowed i w hw, fun _ => idle i w hw⟩,
      fun i w hw => ⟨retiring i w hw, revising i w hw⟩, counts, fun k hk => ?_, fun k hk i w hw => ?_,
      fun i w hw x hx => .inr (waiters i w hw x hx)⟩
    · obtain ⟨queue, backlog, _⟩ := silent k hk
      exact ⟨queue, backlog⟩
    · obtain ⟨_, _, count⟩ := silent k hk
      exact .inr ((holdingCount_eq_zero counts).1 count i w hw)

theorem Directory.Blank.everyWindow {d : Directory} (h : d.Blank) (law : Window → Prop) : EveryWindow law d :=
  fun i w hw => by cases (h.windows i).symm.trans hw

theorem Directory.Blank.recallLaws {d : Directory} (h : d.Blank) : RecallLaws d where
  parts := h.everyWindow _
  causes := h.everyWindow _
  sets := h.everyWindow _
  retiring := h.everyWindow _
  revising := h.everyWindow _
  allowed := h.everyWindow _
  idle := h.everyWindow _
  counts k := by simp [heldSlots, h.windows, h.agents, AgentRecord.initial]
  silent k _ := by simp [h.agents, AgentRecord.initial]
  waiters := h.everyWindow _

/-- Settles O59: every phase keeps the laws of recalls, up to what its mode says is still under way, and an event ends with nothing
under way. -/
theorem stepKeepsRecallLaws : Obligations.StepKeepsRecallLaws := by
  intro s t h hstep
  rcases passes_step hstep with p | b
  · exact recallInv_iff.1 (p.keeps recallInv_phase (recallInv_iff.2 h))
  · exact b.recallLaws

end Sys2Proof.Machine
end

section
/-! SUPPORT. The step, the ports and the order in which the Decision Unit takes them (R43, R45, R46, R178, R196). -/

namespace Sys2Proof.Machine

open Sys2Proof.Safety

/-! ### The step (R46, R178) -/

/-- Settles O1: both clauses are the two cases of the queue. -/
theorem stepRunsFrontCommand : Obligations.StepRunsFrontCommand :=
  ⟨fun _ _ _ => rfl, fun s h => by rw [step, h]⟩

@[simp] theorem State.pending_takeRequest (s : State) (wants : BitVec 4 → Bool)
    (decide : Directory → Agent → Request → Directory × Verdict) : (s.takeRequest wants decide).pending = s.pending := by
  obtain e | ⟨k, r, _, _, e⟩ := takeRequest_cases s wants decide <;> rw [e]
  rfl

@[simp] theorem State.pending_takeEntry (s : State) (wants : BitVec 4 → Bool) (run : Directory → Entry → Directory) :
    (s.takeEntry wants run).pending = s.pending := by
  obtain e | ⟨x, rest, _, _, e⟩ := takeEntry_cases s wants run <;> rw [e]
  rfl

@[simp] theorem State.pending_takeCommand (s : State) (kind : CommandKind) (run : Directory → Entry → Directory) :
    (s.takeCommand kind run).pending = s.pending := s.pending_takeEntry _ _

@[simp] theorem State.pending_writeControl (s : State) (v : Word) : (s.writeControl v).pending = s.pending := by
  unfold State.writeControl
  dsimp only
  split <;> rfl

@[simp] theorem State.pending_submit (s : State) (v : Word) : (s.submit v).pending = s.pending := by
  unfold State.submit
  split <;> rfl

@[simp] theorem State.pending_writeRegister (s : State) (r : Register) (v : Word) :
    (s.writeRegister r v).pending = s.pending := by
  cases r with
  | control => exact s.pending_writeControl v
  | command => exact s.pending_submit v
  | _ => rfl

/-- The outcome is a next state behind which the same events wait. -/
def Continues (s : State) (o : Host.Outcome State Fault Refusal) : Prop := ∃ t, o = .next t ∧ t.pending = s.pending

theorem Continues.of_next {s t : State} (h : t.pending = s.pending) : Continues s (.next t) := ⟨t, rfl, h⟩

/-- Settles O2: a request, a command and a write are taken by one operation each, and every other event is a case of its own. -/
theorem everyCommandAnswers : Obligations.EveryCommandAnswers := by
  intro c s
  show Continues s (exec c s)
  cases c with
  | requestAccepted | verdictReturned | recallDeadline | reservationLapse | idleDeadline | clockAdvance =>
    refine .of_next ?_
    split <;> rfl
  | noticeTaken =>
    refine .of_next ?_
    split
    · rfl
    · split <;> rfl
  | fetch | share | claim | store | release | pin | unpin | withdraw | badRequest =>
    exact .of_next (s.pending_takeRequest _ _)
  | openWindow | query | queryAddr | revise | retire | watch | abort | agentAdmit | agentSet | agentQuery | agentDetach
  | agentFence => exact .of_next (s.pending_takeCommand _ _)
  | unknownCommand => exact .of_next (s.pending_takeEntry _ _)
  | registerWrite index v => exact .of_next (s.pending_writeRegister _ v)
  | completionPop | clockResolutionSet | directoryReset | intEnableWrite | alertStatusClear | alertAgentsClear | agentReset
  | powerOn => exact .of_next rfl

/-! ### Ports and the messages of a link (R43, R196) -/

/-- Settles O11: of the three states of a port, EMPTY alone accepts. -/
theorem requestFillsEmptyPort : Obligations.RequestFillsEmptyPort := by
  intro k m s
  show Host.Outcome.next _ = _
  cases hp : look s.ports k with
  | empty => rfl
  | waiting _ => rfl
  | answering _ => rfl

theorem code_verdictNumber (x : Decision) : x.codes.1.toNat = verdictNumber x := by cases x <;> rfl

theorem code_reasonNumber (x : Decision) : x.codes.2.toNat = reasonNumber x := by
  cases x with
  | grant => rfl
  | pass => rfl
  | retry y => cases y <;> rfl
  | deny y => cases y <;> rfl

/-- A placed field, read back. -/
theorem extractLsb'_place_same {n lo len : Nat} (x : BitVec len) (h : lo + len ≤ n) :
    (place n lo x).extractLsb' lo len = x := by
  apply BitVec.eq_of_getLsbD_eq
  intro j hj
  have : lo + j < n := by omega
  rw [BitVec.getLsbD_extractLsb', getLsbD_place]
  simp [hj, this]

/-- A placed field is 0 beside its bits. -/
theorem extractLsb'_place_beside {n lo len : Nat} (x : BitVec len) (lo' len' : Nat)
    (h : lo' + len' ≤ lo ∨ lo + len ≤ lo') : (place n lo x).extractLsb' lo' len' = 0 := by
  apply BitVec.eq_of_getLsbD_eq
  intro j hj
  rw [BitVec.getLsbD_extractLsb', getLsbD_place]
  obtain below | above := h
  · have : lo' + j < lo := by omega
    simp [this]
  · simp [BitVec.getLsbD_of_ge x (lo' + j - lo) (by omega)]

/-- The fields of a verdict message, each at its bits, with zero between them. -/
theorem verdict_message_fields (v : Verdict) :
    v.message.extractLsb' 0 40 = v.target ∧ v.message.extractLsb' 40 2 = v.decision.codes.1 ∧
      v.message.extractLsb' 42 2 = 0 ∧ v.message.extractLsb' 44 4 = v.decision.codes.2 ∧
      v.message.extractLsb' 48 2 = v.holding.code ∧ v.message.getLsbD 50 = v.uncached ∧
      v.message.getLsbD 51 = v.adviseRo ∧ v.message.extractLsb' 52 2 = v.tag ∧ v.message.extractLsb' 54 10 = 0 ∧
      v.message.extractLsb' 64 15 = v.handle ∧ v.message.extractLsb' 79 17 = 0 := by
  unfold Verdict.message
  refine ⟨?_, ?_, ?_, ?_, ?_, ?_, ?_, ?_, ?_, ?_, ?_⟩
  case refine_6 | refine_7 =>
    simp only [BitVec.getLsbD_or, getLsbD_place]
    simp [bit]
  all_goals
    simp (disch := omega) [BitVec.extractLsb'_or, extractLsb'_place_same, extractLsb'_place_beside]

/-- An agent's place in a recall once its verdict has been returned (R79). -/
def Membership.unmarked : Membership → Membership
  | .outstanding y => .outstanding { y with awaitsVerdict := false }
  | .neither => .neither
  | .blocked => .blocked

theorem RecallContext.markVerdict_false (c : RecallContext) (k : Agent) :
    c.markVerdict k false = { c with members := put c.members k (look c.members k).unmarked } := by
  have same : (look c.members k).unmarked = look c.members k → c =
      { c with members := put c.members k (look c.members k).unmarked } := fun e => by rw [e, put_look]
  unfold RecallContext.markVerdict
  split
  · next y h => rw [h]; rfl
  · next h => exact same (by rw [h]; rfl)
  · next h => exact same (by rw [h]; rfl)

theorem verdictGiven_eq (d : Directory) (k : Agent) : d.verdictGiven k = verdictReached d k := by
  have marked : (fun c : RecallContext => c.markVerdict k false) =
      fun c => { c with members := put c.members k (look c.members k).unmarked } := funext fun c => c.markVerdict_false k
  rw [Directory.verdictGiven, marked]
  rfl

/-- Settles O12: the state by the mark that each context loses, the message by its fields. -/
theorem verdictReturnEmptiesPort : Obligations.VerdictReturnEmptiesPort := by
  intro k v s h
  obtain ⟨target, code, low, reason, holding, uncached, advise, tag, mid, handle, high⟩ := verdict_message_fields v
  refine ⟨?_, target, ?_, ?_, ?_, uncached, advise, tag, handle, low, mid, high⟩
  · show execVerdictReturned k s = _
    rw [execVerdictReturned, h, ← verdictGiven_eq]
  · rw [code, code_verdictNumber]
  · rw [reason, code_reasonNumber]
  · rw [holding, code_holdingNumber]

/-! ### The rotating order (R45) -/

theorem request_eq_some_iff {p : Port} {r : Request} : p.request = some r ↔ p = .waiting r := by
  cases p <;> simp [Port.request]

theorem request_eq_none_iff {p : Port} : p.request = none ↔ ∀ r, p ≠ .waiting r := by
  cases p <;> simp [Port.request]

/-- The selected port is the first one with a request, by its distance from the port after the pointer. -/
theorem selected_eq_some_iff {s : State} {k : Agent} {r : Request} :
    s.selected = some (k, r) ↔
      (look s.ports k).request = some r ∧
        ∀ n, n < k - (s.pointer + 1) → (look s.ports (s.pointer + 1 + n)).request = none := by
  rw [State.selected, List.findSome?_map, ← Fin.findSome?_eq_findSome?_finRange, Fin.findSome?_eq_some_iff]
  simp only [Function.comp_apply, Option.map_eq_some_iff, Option.map_eq_none_iff, Prod.mk.injEq]
  constructor
  · rintro ⟨n, ⟨x, hx, rfl, rfl⟩, first⟩
    exact ⟨hx, by simpa using first⟩
  · rintro ⟨hk, first⟩
    exact ⟨k - (s.pointer + 1), ⟨r, by simpa using hk, by simp, rfl⟩, first⟩

theorem selected_eq_none_iff {s : State} : s.selected = none ↔ ∀ j, (look s.ports j).request = none := by
  rw [State.selected, List.findSome?_map, ← Fin.findSome?_eq_findSome?_finRange, Fin.findSome?_eq_none_iff]
  simp only [Function.comp_apply, Option.map_eq_none_iff]
  exact ⟨fun h j => by simpa using h (j - (s.pointer + 1)), fun h n => h _⟩

/-- Settles O15: a port is at the distance `j - (pointer + 1)` from the port after the pointer. -/
theorem rotatingOrderChoosesPort : Obligations.RotatingOrderChoosesPort := by
  refine fun s => ⟨fun k r => ?_, ?_⟩
  · rw [selected_eq_some_iff, request_eq_some_iff]
    refine and_congr_right fun _ => ⟨fun first j x hj => ?_, fun least n hn => ?_⟩
    · by_contra hlt
      have := first (j - (s.pointer + 1)) (Fin.lt_def.2 (not_le.1 hlt))
      rw [add_sub_cancel] at this
      exact request_eq_none_iff.1 this x hj
    · rw [request_eq_none_iff]
      intro x hx
      have := least _ x hx
      rw [add_sub_cancel_left] at this
      exact absurd (Fin.lt_def.1 hn) (not_lt.2 this)
  · rw [selected_eq_none_iff]
    exact forall_congr' fun j => request_eq_none_iff

end Sys2Proof.Machine
end

section
/-! SUPPORT. The check sequence (R49 to R55): the decision of any request, the equations of each stage, and the stages that a request
has passed by the reason it may still be denied for. -/

namespace Sys2Proof.Machine

open Sys2Proof.Safety

/-! ### The decision of a request -/

/-- The decision of a request, by what its kind code names (R44, R51). -/
def Directory.decideRequest (d : Directory) (now : Tick) (k : Agent) (r : Request) : Directory × Verdict :=
  match RequestKind.ofCode r.kind with
  | none => (d, (d.agent k).badRequestVerdict)
  | some (.access kind) => d.decideAccess now k r kind
  | some .release => d.decideReleaseRequest now k r
  | some kind => d.decideOther k r (otherDecision d now k r kind)

theorem decideRequest_unnamed {d : Directory} {now : Tick} {k : Agent} {r : Request} (h : RequestKind.ofCode r.kind = none) :
    d.decideRequest now k r = (d, (d.agent k).badRequestVerdict) := by rw [Directory.decideRequest, h]

theorem decideRequest_access {d : Directory} {now : Tick} {k : Agent} {r : Request} {kind : AccessKind}
    (h : RequestKind.ofCode r.kind = some (.access kind)) : d.decideRequest now k r = d.decideAccess now k r kind := by
  rw [Directory.decideRequest, h]

theorem decideRequest_release {d : Directory} {now : Tick} {k : Agent} {r : Request}
    (h : RequestKind.ofCode r.kind = some .release) : d.decideRequest now k r = d.decideReleaseRequest now k r := by
  rw [Directory.decideRequest, h]

/-- PIN, UNPIN and WITHDRAW, the kinds without a Form stage (R51). -/
def RequestKind.Formless (kind : RequestKind) : Prop := kind = .pin ∨ kind = .unpin ∨ kind = .withdraw

theorem decideRequest_other {d : Directory} {now : Tick} {k : Agent} {r : Request} {kind : RequestKind}
    (h : RequestKind.ofCode r.kind = some kind) (g : kind.Formless) :
    d.decideRequest now k r = d.decideOther k r (otherDecision d now k r kind) := by
  rw [Directory.decideRequest, h]
  obtain rfl | rfl | rfl := g <;> rfl

theorem takingOf_named {r : Request} {kind : RequestKind} (h : RequestKind.ofCode r.kind = some kind) :
    takingOf r = taking kind := by rw [takingOf, h]

theorem takingOf_unnamed {r : Request} (h : RequestKind.ofCode r.kind = none) : takingOf r = .badRequest := by
  rw [takingOf, h]

/-- The selected request is taken by the command of its kind code, with its decision. -/
theorem exec_takingOf {s : State} {k : Agent} {r : Request} (h : s.selected = some (k, r)) :
    exec (takingOf r) s =
      .next (answered s k (s.directory.decideRequest s.clock k r).2 (s.directory.decideRequest s.clock k r).1) := by
  cases hk : RequestKind.ofCode r.kind with
  | none => rw [takingOf_unnamed hk, exec_badRequest h hk, decideRequest_unnamed hk]
  | some kind =>
    rw [takingOf_named hk]
    cases kind with
    | access kind => rw [exec_access ⟨h, hk⟩, decideRequest_access hk]
    | release => exact (exec_release ⟨h, hk⟩).trans (by rw [decideRequest_release hk])
    | pin => rw [exec_other ⟨h, hk⟩ (.inl rfl), decideRequest_other hk (.inl rfl)]
    | unpin => rw [exec_other ⟨h, hk⟩ (.inr (.inl rfl)), decideRequest_other hk (.inr (.inl rfl))]
    | withdraw => rw [exec_other ⟨h, hk⟩ (.inr (.inr rfl)), decideRequest_other hk (.inr (.inr rfl))]

theorem exec_taking {s : State} {k : Agent} {r : Request} {kind : RequestKind} (h : TakenNext s k r kind) :
    exec (taking kind) s =
      .next (answered s k (s.directory.decideRequest s.clock k r).2 (s.directory.decideRequest s.clock k r).1) := by
  rw [← takingOf_named h.2]
  exact exec_takingOf h.1

/-! ### What each stage says -/

/-- The Agent-state stage is the first of every kind (R50). -/
theorem decideRequest_of_denial {d : Directory} {now : Tick} {k : Agent} {r : Request} {x : DenyReason}
    (h : (d.agent k).denial = some x) : d.decideRequest now k r = (d, plainVerdict (.deny x) 0) := by
  cases hk : RequestKind.ofCode r.kind with
  | none => rw [decideRequest_unnamed hk, AgentRecord.badRequestVerdict, h]; rfl
  | some kind =>
    cases kind with
    | access kind => rw [decideRequest_access hk, Directory.decideAccess, h]; rfl
    | release => rw [decideRequest_release hk, Directory.decideReleaseRequest, h]; rfl
    | pin => rw [decideRequest_other hk (.inl rfl), Directory.decideOther, h]; rfl
    | unpin => rw [decideRequest_other hk (.inr (.inl rfl)), Directory.decideOther, h]; rfl
    | withdraw => rw [decideRequest_other hk (.inr (.inr rfl)), Directory.decideOther, h]; rfl

section
variable {s : State} {k : Agent} {r : Request}

theorem decideRequest_of_unnamed (hs : InService s k) (h : RequestKind.ofCode r.kind = none) :
    s.directory.decideRequest s.clock k r = (s.directory, plainVerdict (.deny .badRequest) 0) := by
  rw [decideRequest_unnamed h, AgentRecord.badRequestVerdict, denial_of_service hs]
  rfl

theorem decideAccess_of_length {kind : AccessKind} (hs : InService s k) (h : ¬ LengthNamed r) :
    s.directory.decideAccess s.clock k r kind = (s.directory, plainVerdict (.deny .badRequest) 0) := by
  have hl : r.lengthValid = false := by rwa [← Bool.not_eq_true, lengthValid_iff]
  rw [Directory.decideAccess, denial_of_service hs, hl]
  rfl

theorem decideAccess_of_none {kind : AccessKind} (hs : InService s k) (hl : LengthNamed r)
    (h : s.directory.matched r.address = none) :
    s.directory.decideAccess s.clock k r kind = (s.directory, (s.directory.agent k).unmatchedVerdict r) := by
  simp [Directory.decideAccess, denial_of_service hs, lengthValid_iff.2 hl, h]

theorem decideAccess_of_some {kind : AccessKind} {i : SlotId} {w : Window} (hs : InService s k) (hl : LengthNamed r)
    (h : s.directory.matched r.address = some (i, w)) :
    s.directory.decideAccess s.clock k r kind = s.directory.matchedAccess s.clock i w k r kind := by
  simp [Directory.decideAccess, denial_of_service hs, lengthValid_iff.2 hl, h]

theorem decideOther_of_none {decide : SlotId → Window → Directory × Verdict} (hs : InService s k)
    (h : s.directory.matched r.address = none) :
    s.directory.decideOther k r decide = (s.directory, plainVerdict (.deny .noWindow) 0) := by
  rw [Directory.decideOther, denial_of_service hs, h]
  rfl

theorem decideOther_of_some {decide : SlotId → Window → Directory × Verdict} {i : SlotId} {w : Window} (hs : InService s k)
    (h : s.directory.matched r.address = some (i, w)) : s.directory.decideOther k r decide = decide i w := by
  simp [Directory.decideOther, denial_of_service hs, h]

/-- The two levels that a RELEASE takes, by their codes (R51, R197). -/
theorem ofCode_eq_none_iff {c : BitVec 2} : Level.ofCode c = none ↔ c ≠ 0 ∧ c ≠ 1 := by
  unfold Level.ofCode
  split
  · simp_all
  · split <;> simp_all

theorem decideReleaseRequest_of_level (hs : InService s k) (h : Level.ofCode r.level = none) :
    s.directory.decideReleaseRequest s.clock k r = (s.directory, plainVerdict (.deny .badRequest) 0) := by
  rw [Directory.decideReleaseRequest, denial_of_service hs, h]
  rfl

theorem decideReleaseRequest_of_named {l : Level} (hs : InService s k) (h : Level.ofCode r.level = some l) :
    s.directory.decideReleaseRequest s.clock k r =
      s.directory.decideOther k r fun i w => s.directory.decideRelease s.clock k r.address l i w := by
  rw [Directory.decideReleaseRequest, denial_of_service hs, h]

end

section
variable {d : Directory} {now : Tick} {i : SlotId} {w : Window} {k : Agent} {r : Request} {sent : AccessKind}

theorem matchedAccess_crosses (h : ¬ EndsWithin w.fields r) :
    d.matchedAccess now i w k r sent = (d, turnedAway w k (.deny .crosses)) := by
  have hf : r.fits w.fields = false := by rwa [← Bool.not_eq_true, fits_iff]
  rw [Directory.matchedAccess, hf, answer_turned _ _ _ _ _ _ (by nofun)]
  rfl

theorem matchedAccess_noRight (h : EndsWithin w.fields r) (g : ¬ RightCovers (w.right k) sent) :
    d.matchedAccess now i w k r sent = (d, turnedAway w k (.deny .noRight)) := by
  have hr : (w.right k).allows sent = false := by rwa [← Bool.not_eq_true, allows_iff]
  simp only [Directory.matchedAccess, fits_iff.2 h, allows_decided, hr, answer_turned _ _ _ _ _ (.deny .noRight) (by nofun)]
  rfl

theorem matchedAccess_detaching (h : EndsWithin w.fields r) (g : RightCovers (w.right k) sent)
    (hd : (d.agent k).state = .detaching) (grows : ((sent.decided w.fields.cacheable).class (w.holding k)).grows = true) :
    d.matchedAccess now i w k r sent = (d, turnedAway w k (.deny .detaching)) := by
  have hdet : d.detaching k = true := by simp [Directory.detaching, hd]
  simp only [Directory.matchedAccess, fits_iff.2 h, allows_decided, allows_iff.2 g, hdet, grows,
    answer_turned _ _ _ _ _ (.deny .detaching) (by nofun)]
  rfl

end

/-! ### The stages passed (R49) -/

/-- The stage of the check sequence that denies for a reason: Agent state, Form, Match, Extent, Right, and the Detaching and Window
stages, which are counted as one here. -/
def DenyReason.stage : DenyReason → Nat
  | .offline | .fenced => 1
  | .badRequest => 2
  | .noWindow => 3
  | .crosses => 4
  | .noRight => 5
  | .detaching | .retiring | .notHolder | .pinLimit => 6

/-- The verdict is not a denial by one of the first `n` stages. -/
def Verdict.Passed (n : Nat) (v : Verdict) : Prop := ∀ x, v.decision = .deny x → n < x.stage

theorem Verdict.Passed.mono {m n : Nat} {v : Verdict} (h : v.Passed n) (g : m ≤ n) : v.Passed m :=
  fun x hx => g.trans_lt (h x hx)

theorem Verdict.Passed.ne {n : Nat} {v : Verdict} (h : v.Passed n) (x : DenyReason) (g : x.stage ≤ n) : v.decision ≠ .deny x :=
  fun e => absurd (h x e) (not_lt.2 g)

theorem Verdict.passed_of_deny {n : Nat} {v : Verdict} {x : DenyReason} (h : v.decision = .deny x) (g : n < x.stage) :
    v.Passed n := fun y hy => by cases h.symm.trans hy; exact g

theorem Verdict.passed_of_grant {n : Nat} {v : Verdict} (h : v.decision = .grant) : v.Passed n :=
  fun x hx => by cases h.symm.trans hx

theorem Verdict.passed_of_retry {n : Nat} {v : Verdict} {x : RetryReason} (h : v.decision = .retry x) : v.Passed n :=
  fun y hy => by cases h.symm.trans hy

section
variable (d : Directory) (now : Tick) (i : SlotId) (w : Window) (k : Agent) (a : Addr)

theorem waitAccess_passed (kind : AccessKind) (x : RetryReason) : (d.waitAccess i w k a kind x).2.Passed 5 := by
  unfold Directory.waitAccess
  split
  · exact Verdict.passed_of_deny rfl (by decide)
  · exact Verdict.passed_of_retry rfl

theorem recallForAccess_passed (kind : AccessKind) : (d.recallForAccess now i w k a kind).2.Passed 5 := by
  unfold Directory.recallForAccess
  split
  · exact Verdict.passed_of_deny rfl (by decide)
  · exact Verdict.passed_of_retry rfl

theorem grantAccess_passed (kind : AccessKind) (served : Bool) : (d.grantAccess now i w k a kind served).2.Passed 5 :=
  Verdict.passed_of_grant rfl

/-- The Window stage grants, has the request wait, or denies for a reason of its own. -/
theorem windowStage_passed (kind : AccessKind) : (d.windowStage now i w k a kind).2.Passed 5 := by
  have grant := grantAccess_passed d now i w k a kind
  have wait := waitAccess_passed d i w k a kind
  have asks := recallForAccess_passed d now i w k a kind
  unfold Directory.windowStage
  dsimp only
  split
  · exact grant _
  · split
    case h_1 => exact Verdict.passed_of_deny rfl (by decide)
    case h_2 => exact Verdict.passed_of_retry rfl
    case h_3 =>
      split
      · exact Verdict.passed_of_retry rfl
      · split
        · exact wait _
        · exact grant _
    all_goals
      split
      · split
        · exact asks
        · exact grant _
      · split
        · split
          · exact asks
          · exact grant _
        · split
          · exact wait _
          · exact grant _

theorem decideRelease_passed (l : Level) : (d.decideRelease now k a l i w).2.Passed 5 := by
  unfold Directory.decideRelease
  split <;> exact Verdict.passed_of_grant rfl

theorem decidePin_passed : (d.decidePin now k a i w).2.Passed 5 := by
  unfold Directory.decidePin
  split
  · exact Verdict.passed_of_deny rfl (by decide)
  split
  · exact Verdict.passed_of_retry rfl
  split
  · exact Verdict.passed_of_deny rfl (by decide)
  split
  · exact Verdict.passed_of_deny rfl (by decide)
  split
  · exact Verdict.passed_of_retry rfl
  split
  · exact Verdict.passed_of_deny rfl (by decide)
  · exact Verdict.passed_of_grant rfl

theorem decideUnpin_passed : (d.decideUnpin now k a i w).2.Passed 5 := by
  unfold Directory.decideUnpin
  split
  · exact Verdict.passed_of_deny rfl (by decide)
  · exact Verdict.passed_of_grant rfl

theorem decideWithdraw_passed : (d.decideWithdraw now k a i w).2.Passed 5 := by
  unfold Directory.decideWithdraw
  split
  · exact Verdict.passed_of_deny rfl (by decide)
  · exact Verdict.passed_of_grant rfl

theorem otherDecision_passed (r : Request) (kind : RequestKind) : (otherDecision d now k r kind i w).2.Passed 5 := by
  cases kind with
  | pin => exact decidePin_passed d now i w k r.address
  | unpin => exact decideUnpin_passed d now i w k r.address
  | withdraw | release | access _ => exact decideWithdraw_passed d now i w k r.address

variable {d now i w k} in
theorem matchedAccess_passed {r : Request} {sent : AccessKind} (h : EndsWithin w.fields r) (g : RightCovers (w.right k) sent) :
    (d.matchedAccess now i w k r sent).2.Passed 5 := by
  simp only [Directory.matchedAccess, fits_iff.2 h, allows_decided, allows_iff.2 g, Bool.not_true, Bool.false_eq_true, if_false]
  split
  · exact Verdict.passed_of_deny rfl (by decide)
  · exact windowStage_passed d now i w k r.address _

end

section
variable {s : State} {k : Agent} {r : Request}

/-- The Form stage passes the request (R51). -/
def FormPasses (r : Request) (kind : RequestKind) : Prop :=
  (∀ x, kind = .access x → LengthNamed r) ∧ (kind = .release → r.level = 0 ∨ r.level = 1)

theorem formPasses_of_formless {kind : RequestKind} (h : kind.Formless) : FormPasses r kind := by
  obtain rfl | rfl | rfl := h <;> exact ⟨nofun, nofun⟩

theorem level_of_form {kind : RequestKind} (h : FormPasses r kind) (g : kind = .release) : ∃ l, Level.ofCode r.level = some l := by
  rw [← Option.ne_none_iff_exists', Ne, ofCode_eq_none_iff]
  rintro ⟨h0, h1⟩
  exact (h.2 g).elim h0 h1

theorem unmatchedVerdict_passed (a : AgentRecord) (r : Request) : (a.unmatchedVerdict r).Passed 2 := by
  unfold AgentRecord.unmatchedVerdict
  split
  · exact Verdict.passed_of_deny rfl (by decide)
  · exact fun x hx => by cases hx

/-- An access that matches its window passes the stages up to the one that turns it away. -/
theorem matchedAccess_passed_match {d : Directory} {now : Tick} {i : SlotId} {w : Window} (sent : AccessKind) :
    (d.matchedAccess now i w k r sent).2.Passed 3 := by
  by_cases he : EndsWithin w.fields r
  · by_cases hr : RightCovers (w.right k) sent
    · exact (matchedAccess_passed he hr).mono (by decide)
    · rw [matchedAccess_noRight he hr]
      exact Verdict.passed_of_deny rfl (by decide)
  · rw [matchedAccess_crosses he]
    exact Verdict.passed_of_deny rfl (by decide)

/-- An access whose Length is named passes the Form stage. -/
theorem decideAccess_passed (hs : InService s k) (hl : LengthNamed r) (kind : AccessKind) :
    (s.directory.decideAccess s.clock k r kind).2.Passed 2 := by
  cases hm : s.directory.matched r.address with
  | none =>
    rw [decideAccess_of_none hs hl hm]
    exact unmatchedVerdict_passed _ r
  | some p =>
    rw [decideAccess_of_some hs hl hm]
    exact (matchedAccess_passed_match kind).mono (by decide)

theorem decideOther_passed (hs : InService s k) {decide : SlotId → Window → Directory × Verdict}
    (h : ∀ i w, (decide i w).2.Passed 5) : (s.directory.decideOther k r decide).2.Passed 2 := by
  cases hm : s.directory.matched r.address with
  | none =>
    rw [decideOther_of_none hs hm]
    exact Verdict.passed_of_deny rfl (by decide)
  | some p =>
    rw [decideOther_of_some hs hm]
    exact (h _ _).mono (by decide)

theorem formless_or (kind : RequestKind) : (∃ x, kind = .access x) ∨ kind = .release ∨ kind.Formless := by
  cases kind <;> simp [RequestKind.Formless]

/-- A request whose form is named passes the Form stage. -/
theorem decideRequest_passed_form {kind : RequestKind} (hs : InService s k) (hk : RequestKind.ofCode r.kind = some kind)
    (h : FormPasses r kind) : (s.directory.decideRequest s.clock k r).2.Passed 2 := by
  obtain ⟨x, rfl⟩ | rfl | g := formless_or kind
  · rw [decideRequest_access hk]
    exact decideAccess_passed hs (h.1 x rfl) x
  · obtain ⟨l, hl⟩ := level_of_form h rfl
    rw [decideRequest_release hk, decideReleaseRequest_of_named hs hl]
    exact decideOther_passed hs fun i w => decideRelease_passed _ _ i w k _ l
  · rw [decideRequest_other hk g]
    exact decideOther_passed hs fun i w => otherDecision_passed _ _ i w k r kind

/-- A request of an agent in service passes the Agent-state stage. -/
theorem decideRequest_passed_state (hs : InService s k) : (s.directory.decideRequest s.clock k r).2.Passed 1 := by
  have bad : (plainVerdict (.deny .badRequest) 0).Passed 1 := Verdict.passed_of_deny rfl (by decide)
  cases hk : RequestKind.ofCode r.kind with
  | none => rw [decideRequest_of_unnamed hs hk]; exact bad
  | some kind =>
    by_cases hf : FormPasses r kind
    · exact (decideRequest_passed_form hs hk hf).mono (by decide)
    · obtain ⟨x, rfl⟩ | rfl | g := formless_or kind
      · have hl : ¬ LengthNamed r := fun hl => hf ⟨fun _ _ => hl, nofun⟩
        rw [decideRequest_access hk, decideAccess_of_length hs hl]
        exact bad
      · have hl : Level.ofCode r.level = none := by
          rw [ofCode_eq_none_iff]
          exact ⟨fun e => hf ⟨nofun, fun _ => .inl e⟩, fun e => hf ⟨nofun, fun _ => .inr e⟩⟩
        rw [decideRequest_release hk, decideReleaseRequest_of_level hs hl]
        exact bad
      · exact absurd (formPasses_of_formless g) hf

end

/-! ### The statements of the stages -/

/-- Settles O17. -/
theorem agentStateStage : Obligations.AgentStateStage := by
  intro s k r h
  rw [exec_takingOf h]
  refine ⟨fun off => ?_, fun fen => ?_, fun hs => ?_⟩
  · rw [decideRequest_of_denial (x := .offline) (by rw [AgentRecord.denial, off])]
  · rw [decideRequest_of_denial (x := .fenced) (by rw [AgentRecord.denial, fen])]
  · have passed := decideRequest_passed_state (r := r) hs
    exact ⟨_, _, rfl, passed.ne .offline (by decide), passed.ne .fenced (by decide)⟩

/-- Settles O18. -/
theorem formStage : Obligations.FormStage := by
  intro s k r h hs
  refine ⟨fun hk => ?_, fun kind hk hl => ?_, fun hk h0 h1 => ?_, fun kind hk hl hr => ?_⟩
  · rw [← takingOf_unnamed hk, exec_takingOf h, decideRequest_of_unnamed hs hk]
  · rw [exec_access ⟨h, hk⟩, decideAccess_of_length hs hl]
  · rw [exec_release ⟨h, hk⟩, decideReleaseRequest_of_level hs (ofCode_eq_none_iff.2 ⟨h0, h1⟩)]
  · rw [exec_taking ⟨h, hk⟩]
    exact ⟨_, _, rfl, (decideRequest_passed_form hs hk ⟨hl, hr⟩).ne .badRequest (by decide)⟩

/-- Settles O19: an access follows the Unmatched Policy, and every other kind is denied. -/
theorem matchStageWithoutWindow : Obligations.MatchStageWithoutWindow := by
  intro s k r kind h hs hu hl hr
  have hm := matched_of_unmatched hu
  rw [exec_taking h]
  obtain ⟨x, rfl⟩ | rfl | g := formless_or kind
  · rw [decideRequest_access h.2, decideAccess_of_none hs (hl x rfl) hm, AgentRecord.unmatchedVerdict]
    cases (s.directory.agent k).settings.unmatched <;> rfl
  · obtain ⟨l, hl⟩ := level_of_form ⟨hl, hr⟩ rfl
    rw [decideRequest_release h.2, decideReleaseRequest_of_named hs hl, decideOther_of_none hs hm]
  · rw [decideRequest_other h.2 g, decideOther_of_none hs hm]
    obtain rfl | rfl | rfl := g <;> rfl

/-- Settles O20: an access that ends within its window is turned away by a later stage, if at all. -/
theorem extentStage : Obligations.ExtentStage := by
  intro s k r kind i w h hs hl hm
  rw [exec_access h, decideAccess_of_matched hs hl hm]
  refine ⟨fun he => ⟨_, _, rfl, ?_⟩, fun he => by rw [matchedAccess_crosses he]⟩
  by_cases hr : RightCovers (w.right k) kind
  · exact (matchedAccess_passed he hr).ne .crosses (by decide)
  · rw [matchedAccess_noRight he hr]
    nofun

/-- An access that its right covers is not denied NO_RIGHT, at whatever stage it ends. -/
theorem decideAccess_covered {s : State} {k : Agent} {r : Request} {i : SlotId} {w : Window} {kind : AccessKind}
    (hs : InService s k) (hm : Matches s.directory r.address i w) (hr : RightCovers (w.right k) kind) :
    (s.directory.decideAccess s.clock k r kind).2.decision ≠ .deny .noRight := by
  by_cases hl : LengthNamed r
  · rw [decideAccess_of_matched hs hl hm]
    by_cases he : EndsWithin w.fields r
    · exact (matchedAccess_passed he hr).ne .noRight (by decide)
    · rw [matchedAccess_crosses he]
      nofun
  · rw [decideAccess_of_length hs hl]
    nofun

/-- Settles O21. -/
theorem rightStage : Obligations.RightStage := by
  intro s k r kind i w h hs hm
  refine ⟨fun x hx hl he hr => ?_, fun hr => ?_⟩
  · subst hx
    rw [exec_access h, decideAccess_of_matched hs hl hm, matchedAccess_noRight he hr]
  · rw [exec_taking h]
    refine ⟨_, _, rfl, ?_⟩
    obtain ⟨x, rfl⟩ | rfl | g := formless_or kind
    · rw [decideRequest_access h.2]
      exact decideAccess_covered hs hm (hr x rfl)
    · rw [decideRequest_release h.2]
      cases hl : Level.ofCode r.level with
      | none => rw [decideReleaseRequest_of_level hs hl]; nofun
      | some l =>
        rw [decideReleaseRequest_of_named hs hl, decideOther_of_matched hs hm]
        exact (decideRelease_passed _ _ i w k _ l).ne .noRight (by decide)
    · rw [decideRequest_other h.2 g, decideOther_of_matched hs hm]
      exact (otherDecision_passed _ _ i w k r kind).ne .noRight (by decide)

end Sys2Proof.Machine
end

section
/-! SUPPORT. The Window stage of an access (R57 to R62, R81), one equation per row: who is granted, who waits, who starts a recall, who
is turned away. -/

namespace Sys2Proof.Machine

open Sys2Proof.Safety

/-! ### The rows of the Window stage -/

theorem waiters_ne_nil_of_head {w : Window} {k : Agent} (h : w.head = some k) : w.waiters ≠ [] := fun e => by
  simp [Window.head, e] at h

theorem state_opened_iff {w : Window} : w.state = .opened ↔ w.context = none := by
  unfold Window.state
  cases w.context with
  | none => simp
  | some c =>
    simp only [reduceCtorEq, iff_false]
    split
    · nofun
    · split <;> nofun

theorem ne_holderAccess_of_neither {c : AccessClass} (h : c = .neither) : c ≠ .holderAccess := h ▸ nofun

theorem grows_of_neither {c : AccessClass} (h : c = .neither) : c.grows = false := h ▸ rfl

/-- The grow or conflict of R60: what is not served at once has to wait. -/
def Window.MustWait (w : Window) (k : Agent) (kind : AccessKind) : Prop :=
  (kind.class (w.holding k)).grows = true ∨ ¬ NoConflict w k kind

theorem mustWait_iff {w : Window} {k : Agent} {kind : AccessKind} :
    ((kind.class (w.holding k)).grows || w.conflicting k kind) = true ↔ w.MustWait k kind := by
  rw [Bool.or_eq_true, conflicting_iff, Window.MustWait]

section
variable {d : Directory} {now : Tick} {i : SlotId} {w : Window} {k : Agent} {a : Addr} {kind : AccessKind}

theorem windowStage_holder (h : kind.class (w.holding k) = .holderAccess) :
    d.windowStage now i w k a kind = d.grantAccess now i w k a kind false := by
  simp [Directory.windowStage, h]

theorem windowStage_retiring (h : kind.class (w.holding k) ≠ .holderAccess) (hs : w.state = .retiring) :
    d.windowStage now i w k a kind = (d, turnedAway w k (.deny .retiring)) := by
  simp [Directory.windowStage, h, hs, answer_turned]

theorem windowStage_revising (h : kind.class (w.holding k) ≠ .holderAccess) (hs : w.state = .revising) :
    d.windowStage now i w k a kind = (d, turnedAway w k (.retry .revising)) := by
  simp [Directory.windowStage, h, hs, answer_turned]

theorem windowStage_recalling_head (h : kind.class (w.holding k) ≠ .holderAccess) (hs : w.state = .recalling)
    (hh : w.head = some k) : d.windowStage now i w k a kind = (d, turnedAway w k (.retry .recalling)) := by
  simp [Directory.windowStage, h, hs, hh, answer_turned]

/-- A request waits: in RECALLING it is QUEUED, and in OPEN RESERVED where the window is spoken for. -/
theorem windowStage_waits {reason : RetryReason} (h : kind.class (w.holding k) ≠ .holderAccess) (hm : w.MustWait k kind)
    (hh : w.head ≠ some k)
    (hs : w.state = .opened ∧ (w.waiters ≠ [] ∨ w.reservation ≠ none) ∧ reason = .reserved ∨
      w.state = .recalling ∧ reason = .queued) :
    d.windowStage now i w k a kind = d.waitAccess i w k a kind reason := by
  obtain ⟨hs, busy, rfl⟩ | ⟨hs, rfl⟩ := hs
  · have spoken : (w.reservation.isNone && w.waiters.isEmpty) = false := by
      rw [Bool.and_eq_false_iff]
      obtain hw | hr := busy
      · exact .inr (by simpa using hw)
      · exact .inl (by simpa [Option.isSome_iff_ne_none] using hr)
    simp only [Directory.windowStage, h, hs, spoken, hh, mustWait_iff.2 hm, Bool.false_eq_true, if_false, if_true]
  · simp only [Directory.windowStage, h, hs, hh, mustWait_iff.2 hm, if_false, if_true]

/-- A conflict in OPEN, from the first to wait or from the head, starts a recall. -/
theorem windowStage_recalls (h : kind.class (w.holding k) ≠ .holderAccess) (hs : w.state = .opened)
    (hf : w.waiters = [] ∧ w.reservation = none ∨ w.head = some k) (hc : ¬ NoConflict w k kind) :
    d.windowStage now i w k a kind = d.recallForAccess now i w k a kind := by
  have conflict := conflicting_iff.2 hc
  obtain ⟨hw, hr⟩ | hh := hf
  · simp [Directory.windowStage, h, hs, hw, hr, conflict]
  · simp [Directory.windowStage, h, hs, waiters_ne_nil_of_head hh, hh, conflict]

theorem windowStage_served (h : kind.class (w.holding k) ≠ .holderAccess) (hs : w.state = .opened) (hh : w.head = some k)
    (hc : NoConflict w k kind) : d.windowStage now i w k a kind = d.grantAccess now i w k a kind true := by
  simp [Directory.windowStage, h, hs, waiters_ne_nil_of_head hh, hh, conflicting_eq_false_iff.2 hc]

/-- A FETCH or STORE without a conflict passes by the waiter list. -/
theorem windowStage_neither (h : kind.class (w.holding k) = .neither) (hc : NoConflict w k kind)
    (hs : w.state = .opened ∨ w.state = .recalling) (hh : w.head ≠ some k) :
    d.windowStage now i w k a kind = d.grantAccess now i w k a kind false := by
  have conflict := conflicting_eq_false_iff.2 hc
  obtain hs | hs := hs
  · simp [Directory.windowStage, h, hs, hh, conflict, AccessClass.grows]
  · simp [Directory.windowStage, h, hs, hh, conflict, AccessClass.grows]

/-! ### Waiting and the start of a recall -/

theorem waitAccess_detaching (h : (d.agent k).state = .detaching) (x : RetryReason) :
    d.waitAccess i w k a kind x = (d, turnedAway w k (.deny .detaching)) := by
  simp [Directory.waitAccess, Directory.detaching, h, answer_turned]

theorem recallForAccess_detaching (h : (d.agent k).state = .detaching) :
    d.recallForAccess now i w k a kind = (d, turnedAway w k (.deny .detaching)) := by
  simp [Directory.recallForAccess, Directory.detaching, h, answer_turned]

/-- The list that a request joins (R81): the agent's entry is set anew, or a new one stands at the tail. -/
theorem enlist_waiters (w : Window) (k : Agent) (kind : AccessKind) [Decidable (∃ x ∈ w.waiters, x.agent = k)] :
    w.enlist k kind =
      { w with
        waiters :=
          if ∃ x ∈ w.waiters, x.agent = k then
            w.waiters.map fun x => if x.agent = k then { agent := k, wanted := kind } else x
          else w.waiters ++ [{ agent := k, wanted := kind }] } := by
  have entry : ∀ x : Waiter, (if x.agent = k then { x with wanted := kind } else x) =
      if x.agent = k then { agent := k, wanted := kind } else x := by
    intro x
    split
    · next e => rw [e]
    · rfl
  unfold Window.enlist
  simp only [listed_iff, entry]
  split <;> rfl

/-- The requester at the head of a list is listed there alone. -/
theorem enlist_head {x : Waiter} {rest : List Waiter} (e : w.waiters = x :: rest) (hx : x.agent = k)
    (hrest : ∀ y ∈ rest, y.agent ≠ k) : w.enlist k kind = { w with waiters := { agent := k, wanted := kind } :: rest } := by
  have others : (rest.map fun y => if y.agent = k then { y with wanted := kind } else y) = rest :=
    (List.map_congr_left fun y hy => if_neg (hrest y hy)).trans (List.map_id _)
  have listed : w.listed k = true := by simp [Window.listed, e, hx]
  rw [Window.enlist, if_pos listed, e, List.map_cons, others, if_pos hx, ← hx]

theorem enlist_nil (e : w.waiters = []) : w.enlist k kind = { w with waiters := [{ agent := k, wanted := kind }] } := by
  simp [Window.enlist, Window.listed, e]

theorem waitAccess_of_online (h : d.detaching k = false) (hw : d.window i = some w) (x : RetryReason) :
    d.waitAccess i w k a kind x = (withWindow d i (w.enlist k kind), turnedAway w k (.retry x)) := by
  simp [Directory.waitAccess, h, modWindow_eq_withWindow _ hw, answer_turned]

/-- The recall that a conflict starts, with the requester at the head of the list (R58, R59, R74). -/
theorem recallForAccess_started {list : List Waiter} (h : d.detaching k = false) (hw : d.window i = some w)
    (he : w.enlist k kind = { w with waiters := list }) (hc : ¬ NoConflict w k kind) :
    ∃ d', d.recallForAccess now i w k a kind = (d', turnedAway w k (.retry .recalling)) ∧ d'.parked = d.parked ∧
      RecallStarted d d' now i { w with waiters := list } waiterAlone (lowering w k kind) := by
  have hw' : (withWindow d i { w with waiters := list }).window i = some { w with waiters := list } := by simp
  obtain ⟨started, parked, _⟩ := startRecall_waiter (now := now) (k := k) (kind := kind) hw'
  obtain ⟨j, hj⟩ : ∃ j, lowering w k kind j ≠ none := by simpa [noConflict_iff] using hc
  refine ⟨_, ?_, parked, recallStarted_of_withWindow started⟩
  have waits := checkCompletion_of_started started (j := j) hj
  rw [Directory.recallForAccess, if_neg (by simp [h]), modWindow_eq_withWindow _ hw, he]
  dsimp only
  rw [answer_turned _ _ _ _ _ _ (by nofun)]
  exact congrArg (·, _) waits

end

/-! ### The statements -/

/-- An access that passes the Right stage, by an agent that the Detaching stage lets through, is decided at the Window stage. -/
theorem exec_admitted {s : State} {k : Agent} {r : Request} {sent : AccessKind} {i : SlotId} {w : Window} {v : Verdict}
    {d : Directory} (h : Admitted s k r sent i w)
    (g : Online s k ∨ ((sent.decided w.fields.cacheable).class (w.holding k)).grows = false)
    (e : s.directory.windowStage s.clock i w k r.address (sent.decided w.fields.cacheable) = (d, v)) :
    exec (taking (.access sent)) s = .next (answered s k v d) := by
  rw [exec_access h.next, decideAccess_of_admitted h, e]
  intro hd
  exact g.resolve_left fun ho => by cases ho.symm.trans hd

theorem window_of_admitted {s : State} {k : Agent} {r : Request} {sent : AccessKind} {i : SlotId} {w : Window}
    (h : Admitted s k r sent i w) : s.directory.window i = some w := h.found.1

/-- A FETCH or STORE that meets a conflict while the agent is DETACHING: neither waiting nor a recall is open to it (R55). -/
theorem windowStage_detaching {d : Directory} {now : Tick} {i : SlotId} {w : Window} {k : Agent} {a : Addr} {kind : AccessKind}
    (hd : (d.agent k).state = .detaching) (h : kind.class (w.holding k) = .neither) (hc : ¬ NoConflict w k kind)
    (hs : w.state = .opened ∨ w.state = .recalling ∧ w.head ≠ some k) :
    d.windowStage now i w k a kind = (d, turnedAway w k (.deny .detaching)) := by
  have hn := ne_holderAccess_of_neither h
  by_cases hh : w.head = some k
  · have hopen : w.state = .opened := hs.resolve_right fun g => g.2 hh
    rw [windowStage_recalls hn hopen (.inr hh) hc, recallForAccess_detaching hd]
  · obtain hopen | ⟨hrec, _⟩ := hs
    · by_cases free : w.waiters = [] ∧ w.reservation = none
      · rw [windowStage_recalls hn hopen (.inl free) hc, recallForAccess_detaching hd]
      · rw [windowStage_waits hn (.inr hc) hh (.inl ⟨hopen, not_and_or.1 free, rfl⟩), waitAccess_detaching hd]
    · rw [windowStage_waits hn (.inr hc) hh (.inr ⟨hrec, rfl⟩), waitAccess_detaching hd]

/-- Settles O22. -/
theorem detachingAgentIsLimited : Obligations.DetachingAgentIsLimited := by
  intro s k r i w hd
  refine ⟨fun sent h g => ?_, fun h => ?_⟩
  · obtain grows | ⟨hn, hc, hs⟩ := g
    · rw [exec_access h.next, decideAccess_of_matched h.service h.length h.found,
        matchedAccess_detaching h.extent h.right hd grows]
    · exact exec_admitted h (.inr (grows_of_neither hn)) (windowStage_detaching hd hn hc hs)
  · have denied : s.directory.decidePin s.clock k r.address i w = (s.directory, turnedAway w k (.deny .detaching)) := by
      simp [Directory.decidePin, Directory.detaching, hd, answer_turned]
    refine (exec_other h.next (.inl rfl)).trans ?_
    rw [decideOther_of_matched h.service h.found]
    exact congrArg (fun x : Directory × Verdict => Host.Outcome.next (answered s k x.2 x.1)) denied

/-- Settles O23. -/
theorem revisingAndRetiringTurnAway : Obligations.RevisingAndRetiringTurnAway := by
  intro s k r i w
  have other : ∀ {kind : RequestKind} {v : Verdict}, Found s k r kind i w → kind.Formless →
      otherDecision s.directory s.clock k r kind i w = (s.directory, v) →
      exec (taking kind) s = .next (answered s k v s.directory) := by
    intro kind v h g e
    rw [exec_other h.next g, decideOther_of_matched h.service h.found, e]
  refine ⟨fun sent h hn g => ?_, fun h ho => ?_, fun h hs => ?_⟩
  · have through := g.imp_right grows_of_neither
    exact ⟨fun hs => exec_admitted h through (windowStage_revising hn hs),
      fun hs => exec_admitted h through (windowStage_retiring hn hs)⟩
  · have hd := detaching_of_online ho
    refine ⟨fun hs => other h (.inl rfl) ?_, fun hs => other h (.inl rfl) ?_⟩
    · simp [otherDecision, Directory.decidePin, hd, hs, answer_turned]
    · simp [otherDecision, Directory.decidePin, hd, hs, answer_turned]
  · exact other h (.inr (.inr rfl)) (by simp [otherDecision, Directory.decideWithdraw, hs, answer_turned])

/-- Settles O28. -/
theorem conflictStartsRecall : Obligations.ConflictStartsRecall := by
  intro s k r sent i w rest h ho hctx hlist hn hc
  have hopen := state_opened_iff.2 hctx
  have first : w.waiters = [] ∧ w.reservation = none ∨ w.head = some k := by
    obtain ⟨hw, hr, _⟩ | ⟨x, hw, hx, _⟩ := hlist
    · exact .inl ⟨hw, hr⟩
    · exact .inr (by rw [Window.head, hw, ← hx]; rfl)
  have enlisted : w.enlist k (sent.decided w.fields.cacheable) =
      { w with waiters := { agent := k, wanted := sent.decided w.fields.cacheable } :: rest } := by
    obtain ⟨hw, _, rfl⟩ | ⟨x, hw, hx, hrest⟩ := hlist
    · exact enlist_nil hw
    · exact enlist_head hw hx hrest
  obtain ⟨d, e, parked, started⟩ := recallForAccess_started (now := s.clock) (a := r.address) (detaching_of_online ho)
    (window_of_admitted h) enlisted hc
  exact ⟨d, exec_admitted h (.inl ho) ((windowStage_recalls hn hopen first hc).trans e), parked, started⟩

/-- Settles O29. -/
theorem requestJoinsWaiterList : Obligations.RequestJoinsWaiterList := by
  intro s k r sent i w h ho hn
  refine ⟨fun hm hh reason hs => ?_, fun hh hs => exec_admitted h (.inl ho) (windowStage_recalling_head hn hs hh)⟩
  refine exec_admitted h (.inl ho) ?_
  rw [windowStage_waits hn hm hh hs, waitAccess_of_online (detaching_of_online ho) (window_of_admitted h), enlist_waiters]

end Sys2Proof.Machine
end

section
/-! SUPPORT. Grants under a watch (R66, R67, R151, R152): the end of a watch does not depend on head service, nor head service on the
watch, so the report of a grant may be made before the head is served or after it. -/

namespace Sys2Proof.Machine

open Sys2Proof.Safety

/-! ### The end of a watch, beside the operations of a recall in the same window -/

/-- The watch of slot `i` ends with a record. -/
def Directory.unwatch (d : Directory) (i : SlotId) (r : Record) : Directory :=
  (d.modWindow i fun w => { w with watch := none }).finish r

section
variable (d : Directory) (i : SlotId) (r : Record)

theorem window_unwatch : (d.unwatch i r).window i = (d.window i).map fun w => { w with watch := none } := by
  simp [Directory.unwatch]

@[simp] theorem context_unwatch : (d.unwatch i r).context i = d.context i := by
  rw [context_eq, window_unwatch, context_eq]
  cases d.window i <;> rfl

@[simp] theorem member_unwatch (k : Agent) : (d.unwatch i r).member i k = d.member i k := by
  rw [Directory.member, context_unwatch, Directory.member]

@[simp] theorem unsent_unwatch (k : Agent) : (d.unwatch i r).unsent i k = d.unsent i k := by
  rw [Directory.unsent, member_unwatch, Directory.unsent]

@[simp] theorem handle_unwatch : (d.unwatch i r).handle i = d.handle i := handle_modWindow d i i _

@[simp] theorem recallOf_unwatch (k : Agent) : (d.unwatch i r).recallOf i k = d.recallOf i k := by
  unfold Directory.recallOf
  rw [window_unwatch]
  cases d.window i with
  | none => rfl
  | some w =>
    simp only [Option.map_some, Directory.noticeFields, handle_unwatch]

theorem modAgent_unwatch (k : Agent) (f : AgentRecord → AgentRecord) :
    (d.unwatch i r).modAgent k f = (d.modAgent k f).unwatch i r := rfl

theorem modWindow_unwatch {f : Window → Window} (h : ∀ w : Window, f { w with watch := none } = { f w with watch := none }) :
    (d.unwatch i r).modWindow i f = (d.modWindow i f).unwatch i r := by
  show ((d.modWindow i _).modWindow i f).finish r = ((d.modWindow i f).modWindow i _).finish r
  rw [modWindow_modWindow, modWindow_modWindow]
  exact congrArg (fun g => (d.modWindow i g).finish r) (funext h)

theorem modContext_unwatch (f : RecallContext → RecallContext) :
    (d.unwatch i r).modContext i f = (d.modContext i f).unwatch i r := modWindow_unwatch d i r fun _ => rfl

theorem setHolding_unwatch (k : Agent) (h : Holding) : (d.unwatch i r).setHolding i k h = (d.setHolding i k h).unwatch i r := by
  unfold Directory.setHolding
  rw [window_unwatch]
  cases d.window i with
  | none => rfl
  | some w =>
    exact congrArg (Directory.modAgent · k _) (modWindow_unwatch d i r (f := (·.setHolding k h)) fun _ => rfl)

theorem placeRecall_unwatch (k : Agent) : (d.unwatch i r).placeRecall i k = (d.placeRecall i k).unwatch i r := by
  unfold Directory.placeRecall
  rw [recallOf_unwatch]
  split
  · rfl
  · next l f _ =>
    exact modContext_unwatch (d.modAgent k fun _ => ((d.agent k).placeRecall i l f).1) i r
      (·.markNotice k ((d.agent k).placeRecall i l f).2)

theorem placeRecallAgain_unwatch (k : Agent) :
    (d.unwatch i r).placeRecallAgain i k = (d.placeRecallAgain i k).unwatch i r := by
  unfold Directory.placeRecallAgain
  rw [unsent_unwatch, placeRecall_unwatch]
  split <;> rfl

theorem enterOutstanding_unwatch (now : Tick) (k : Agent) :
    (d.unwatch i r).enterOutstanding now i k = (d.enterOutstanding now i k).unwatch i r := by
  unfold Directory.enterOutstanding
  dsimp only
  rw [modContext_unwatch, placeRecall_unwatch]
  rfl

theorem revoke_unwatch (k : Agent) (force : Bool) : (d.unwatch i r).revoke i k force = (d.revoke i k force).unwatch i r := by
  cases hw : d.window i with
  | none => simp [Directory.revoke, window_unwatch, hw]
  | some w =>
    cases hr : d.recallOf i k with
    | none => simp [Directory.revoke, window_unwatch, hw, hr]
    | some p =>
      have pins : ∀ x : Directory, (x.unwatch i r).setPins i k 0 = (x.setPins i k 0).unwatch i r := fun x =>
        modWindow_unwatch x i r fun _ => rfl
      simp only [Directory.revoke, window_unwatch, recallOf_unwatch, hw, hr, Option.map_some]
      rw [show Window.holding { w with watch := none } k = w.holding k from rfl, setHolding_unwatch, pins, ← apply_ite
        (Directory.unwatch · i r), modContext_unwatch, modAgent_unwatch]

theorem mergeTarget_unwatch (now : Tick) (b : Bool) (k : Agent) (l : Level) :
    (d.unwatch i r).mergeTarget now b i k l = (d.mergeTarget now b i k l).unwatch i r := by
  cases hw : d.window i with
  | none => simp [Directory.mergeTarget, window_unwatch, hw]
  | some w =>
    cases hc : w.context with
    | none => simp [Directory.mergeTarget, window_unwatch, hw, hc]
    | some c =>
      simp only [Directory.mergeTarget, window_unwatch, hw, hc, Option.map_some, modContext_unwatch, enterOutstanding_unwatch,
        revoke_unwatch, placeRecallAgain_unwatch, ← apply_ite (Directory.unwatch · i r)]
      cases look c.members k <;> rfl

theorem mergeTargets_unwatch (now : Tick) (ts : List (Agent × Level)) :
    (d.unwatch i r).mergeTargets now i ts = (d.mergeTargets now i ts).unwatch i r := by
  induction ts generalizing d with
  | nil => rfl
  | cons t ts ih =>
    show ((d.unwatch i r).mergeTarget now false i t.1 t.2).mergeTargets now i ts = _
    rw [mergeTarget_unwatch, ih]
    rfl

theorem startRecall_unwatch (now : Tick) (cause : Cause) (force : Bool) (ts : List (Agent × Level)) :
    (d.unwatch i r).startRecall now i cause force ts = (d.startRecall now i cause force ts).unwatch i r := by
  unfold Directory.startRecall Directory.createContext
  rw [modWindow_unwatch _ _ _ fun _ => rfl, mergeTargets_unwatch]

theorem headService_unwatch (now : Tick) : (d.unwatch i r).headService now i = (d.headService now i).unwatch i r := by
  cases hw : d.window i with
  | none => simp [Directory.headService, window_unwatch, hw]
  | some w =>
    have hw' : (d.unwatch i r).window i = some { w with watch := none } := by rw [window_unwatch, hw]; rfl
    by_cases hrun : w.context ≠ none ∨ w.reservation ≠ none
    · rw [headService_idle hw hrun, headService_idle hw' hrun]
    · push Not at hrun
      obtain ⟨hc, hr⟩ := hrun
      have set : ∀ f : Window → Window, (∀ v : Window, f { v with watch := none } = { f v with watch := none }) →
          withWindow (d.unwatch i r) i (f { w with watch := none }) = (withWindow d i (f w)).unwatch i r := fun f hf => by
        rw [← modWindow_eq_withWindow f hw', ← modWindow_eq_withWindow f hw, modWindow_unwatch _ _ _ hf]
      cases hs : w.servable with
      | nil =>
        rw [headService_none hw hc hr hs, headService_none hw' hc hr hs]
        exact set (fun v => { v with waiters := [] }) fun _ => rfl
      | cons x rest =>
        rw [headService_some hw hc hr hs, headService_some hw' hc hr hs]
        rw [apply_ite (Directory.unwatch · i r), ← startRecall_unwatch]
        exact congrArg₂ (ite _)
          (set (fun v => { v with
            waiters := x :: rest
            reservation := some
              { agent := x.agent, expiry := timer now ((d.agent x.agent).settings.reservationHold.setWidth 32) } }) fun _ => rfl)
          (congrArg (fun y : Directory => y.startRecall now i .waiter false
              (w.conflicts x.agent (x.wanted.decided w.fields.cacheable)))
            (set (fun v => { v with waiters := x :: rest }) fun _ => rfl))

end

/-! ### The report of a grant (R151, R152) -/

/-- The record of a hit, with the kind and the requester in word 2 and the offset in words 3 and 4 (R152). -/
theorem hitRecord_eq (x : Watch) (handle : Word) (f : FieldSet) (k : Agent) (kind : AccessKind) (a : Addr) :
    x.hitRecord handle f k kind a =
      { tag := x.tag, kind := 6, status := .done, word1 := handle
        word2 := BitVec.ofNat 32 (k.val + 256 * kind.code.toNat)
        word3 := (a - f.agentBase).extractLsb' 0 32
        word4 := ((a - f.agentBase).extractLsb' 32 4).setWidth 32
        word5 := 0 } := by
  have who : place 32 0 (BitVec.ofNat 3 k.val) ||| place 32 8 kind.code = BitVec.ofNat 32 (k.val + 256 * kind.code.toNat) := by
    cases kind <;> decide +revert
  have high : place 32 0 (field (a - f.agentBase) 32 4) = ((a - f.agentBase).extractLsb' 32 4).setWidth 32 := by
    simp [place, field]
  rw [Watch.hitRecord, who, high]
  rfl

/-- The window's watch is hit by a grant of this kind to this agent (R151). -/
def Window.Hit (w : Window) (k : Agent) (kind : AccessKind) (x : Watch) : Prop :=
  w.watch = some x ∧ (x.agents.getLsbD k.val && x.kinds kind) = true

theorem hit_or_unwatched (w : Window) (k : Agent) (kind : AccessKind) : (∃ x, w.Hit k kind x) ∨ Unwatched w k kind := by
  by_cases h : Unwatched w k kind
  · exact .inr h
  · rw [unwatched_iff] at h
    push Not at h
    obtain ⟨x, hx, hit⟩ := h
    exact .inl ⟨x, hx, by simpa using hit⟩

section
variable {d : Directory} {i : SlotId} {w : Window} {k : Agent} {kind : AccessKind} {a : Addr}

theorem reportGrant_hit {x : Watch} (hw : d.window i = some w) (h : w.Hit k kind x) :
    d.reportGrant i k kind a = d.unwatch i (x.hitRecord (d.handleWord i) w.fields k kind a) := by
  obtain ⟨hx, hit⟩ := h
  simp only [Directory.reportGrant, hw, hx, hit, if_true]
  rfl

theorem withGrant_hit {x : Watch} (h : w.Hit k kind x) :
    withGrant d i w k kind a =
      withEnd (withWindow d i { w with watch := none })
        (x.hitRecord ((slotHandle d i).setWidth 32) w.fields k kind a) := by
  obtain ⟨hx, hit⟩ := h
  rw [hitRecord_eq, withGrant, hx]
  cases kind <;> exact if_pos (by simpa [Watch.kinds] using hit)

theorem withGrant_unwatched (h : Unwatched w k kind) : withGrant d i w k kind a = withWindow d i w := by
  rw [unwatched_iff] at h
  unfold withGrant
  cases hx : w.watch with
  | none => rfl
  | some x =>
    have miss := h x hx
    cases kind <;> exact if_neg (by simpa [Watch.kinds] using miss)

/-- The report of a grant, in the words of the statements. -/
theorem reportGrant_eq_withGrant : (withWindow d i w).reportGrant i k kind a = withGrant d i w k kind a := by
  have hw : (withWindow d i w).window i = some w := by simp
  obtain ⟨x, hx⟩ | hu := hit_or_unwatched w k kind
  · rw [reportGrant_hit hw hx, withGrant_hit hx, Directory.unwatch, modWindow_eq_withWindow _ hw, withWindow_withWindow,
      handleWord_eq, slotHandle_withWindow]
    rfl
  · rw [reportGrant_unwatched hw hu, withGrant_unwatched hu]

theorem window_withGrant :
    ∃ v, (withGrant d i w k kind a).window i = some v ∧ v.context = w.context ∧ v.waiters = w.waiters := by
  obtain ⟨x, hx⟩ | hu := hit_or_unwatched w k kind
  · rw [withGrant_hit hx]
    exact ⟨_, (window_withWindow d i i _).trans (if_pos rfl), rfl, rfl⟩
  · rw [withGrant_unwatched hu]
    exact ⟨w, (window_withWindow d i i w).trans (if_pos rfl), rfl, rfl⟩

theorem reportGrant_withAgent (j : Agent) (x : AgentRecord) :
    (withAgent d j x).reportGrant i k kind a = withAgent (d.reportGrant i k kind a) j x := by
  show (d.modAgent j fun _ => x).reportGrant i k kind a = (d.reportGrant i k kind a).modAgent j fun _ => x
  unfold Directory.reportGrant
  rw [window_modAgent]
  cases d.window i with
  | none => rfl
  | some w =>
    dsimp only
    cases w.watch with
    | none => rfl
    | some y =>
      dsimp only
      split <;> rfl

/-- The head may be served before the grant is reported or after it. -/
theorem reportGrant_headService (now : Tick) (hw : d.window i = some w) :
    (d.headService now i).reportGrant i k kind a = (d.reportGrant i k kind a).headService now i := by
  obtain ⟨⟨v, hv, fields, _, _, watch⟩, handle⟩ := headService_keeps now hw
  obtain ⟨x, hx⟩ | hu := hit_or_unwatched w k kind
  · rw [reportGrant_hit hw hx, headService_unwatch, reportGrant_hit hv ⟨watch.trans hx.1, hx.2⟩, fields, handleWord_eq,
      handle, ← handleWord_eq]
  · rw [reportGrant_unwatched hw hu, reportGrant_unwatched hv]
    rw [unwatched_iff, watch]
    exact unwatched_iff.1 hu

/-! ### Grants -/

theorem granted_of_fields {v : Window} (h : v.fields = w.fields) (handle : Handle) (x : Holding) :
    granted v handle x a = granted w handle x a := by
  simp [granted, h]

/-- The grant of a request that keeps its holding. -/
theorem grantAccess_keeps (now : Tick) (hw : d.window i = some w)
    (h : kind.class (w.holding k) = .holderAccess ∨ kind.class (w.holding k) = .neither) :
    d.grantAccess now i w k a kind false =
      (withGrant d i (touched w now) k kind a, granted w (slotHandle d i) (w.holding k) a) := by
  rw [grantAccess_unserved hw (holdingAfter_of_class h), reportGrant_eq_withGrant]

/-- The window after the grant of its head's request, before the next one is served (R59, R64, R66). -/
def Window.headGranted (w : Window) (now : Tick) (k : Agent) (kind : AccessKind) (rest : List Waiter) : Window :=
  { touched w now with
    holdings := put w.holdings k (kind.holdingAfter (w.holding k)), waiters := rest, reservation := none }

/-- The grant of the head's request (R59, R67). -/
theorem grantAccess_served (now : Tick) {rest : List Waiter} (hw : d.window i = some w)
    (hl : w.waiters.filter (·.agent != k) = rest) :
    d.grantAccess now i w k a kind true =
      ((withAgent (withGrant d i (w.headGranted now k kind rest) k kind a) k
          { d.agent k with
            holdingCount := countAfter (d.agent k).holdingCount (w.holding k) (kind.holdingAfter (w.holding k)) }).headService
        now i,
        granted w (slotHandle d i) (kind.holdingAfter (w.holding k)) a) := by
  subst hl
  let record := { d.agent k with
    holdingCount := countAfter (d.agent k).holdingCount (w.holding k) (kind.holdingAfter (w.holding k)) }
  let before := withAgent (withWindow d i (w.headGranted now k kind (w.waiters.filter (·.agent != k)))) k record
  have hb : before.window i = some (w.headGranted now k kind (w.waiters.filter (·.agent != k))) := by simp [before]
  obtain ⟨⟨v, hv, fields, holdings, _, _⟩, handle⟩ := headService_keeps now hb
  have held : v.holding k = kind.holdingAfter (w.holding k) := by
    simp [Window.holding, holdings, Window.headGranted]
  have start : ((d.setHolding i k (kind.holdingAfter (w.holding k))).modWindow i (·.granted now)).modWindow i
      (fun w => { w.unlist k with reservation := none }) = before := by
    rw [modWindow_modWindow, setHolding_eq hw, modWindow_withAgent _ (by simp; rfl), withWindow_withWindow]
    rfl
  unfold Directory.grantAccess
  dsimp only
  rw [if_pos rfl, start, hv, Option.getD_some, reportGrant_headService now hb, reportGrant_withAgent,
    reportGrant_eq_withGrant, answer_grant, held, handle, granted_of_fields fields]
  simp only [before, slotHandle_withAgent, slotHandle_withWindow]
  rfl

end

/-! ### The statements -/

/-- A window with no waiter left and no recall has no head to serve. -/
theorem headService_empty {d : Directory} {now : Tick} {i : SlotId} {w : Window} (hw : d.window i = some w)
    (hc : w.context = none) (hl : w.waiters = []) : d.headService now i = d := by
  by_cases hr : w.reservation = none
  · rw [headService_none hw hc hr (by simp [Window.servable, hl]), ← hl]
    exact withWindow_self hw
  · exact headService_idle hw (.inr hr)

/-- A grant that is not the head's and keeps the holding (R57, R58, R60, R63). -/
theorem exec_keeps {s : State} {k : Agent} {r : Request} {sent : AccessKind} {i : SlotId} {w : Window}
    (h : Admitted s k r sent i w)
    (g : (sent.decided w.fields.cacheable).class (w.holding k) = .holderAccess ∨
      ((sent.decided w.fields.cacheable).class (w.holding k) = .neither ∧ NoConflict w k (sent.decided w.fields.cacheable) ∧
        (w.state = .opened ∨ w.state = .recalling) ∧ w.head ≠ some k)) :
    exec (taking (.access sent)) s =
      .next (answered s k (granted w (slotHandle s.directory i) (w.holding k) r.address)
        (withGrant s.directory i (touched w s.clock) k (sent.decided w.fields.cacheable) r.address)) := by
  have hw := window_of_admitted h
  obtain hh | ⟨hn, hc, hs, hhead⟩ := g
  · refine exec_admitted h (.inr (by rw [hh]; rfl)) ?_
    rw [windowStage_holder hh, grantAccess_keeps _ hw (.inl hh)]
  · refine exec_admitted h (.inr (grows_of_neither hn)) ?_
    rw [windowStage_neither hn hc hs hhead, grantAccess_keeps _ hw (.inr hn)]

/-- Settles O24: with and without a hit, the grant is the one of `exec_keeps`. -/
theorem accessKeepsHolding : Obligations.AccessKeepsHolding := by
  refine ⟨fun s k r sent i w h hu g => ?_, fun s k r sent i w x h hx hu g => ?_⟩
  · rw [exec_keeps h g, withGrant_unwatched]
    exact hu
  · obtain ⟨y, hy, hit⟩ := (hit_or_unwatched w k (sent.decided w.fields.cacheable)).resolve_right hu
    cases hx.symm.trans hy
    have hit' : (touched w s.clock).Hit k (sent.decided w.fields.cacheable) x := ⟨hx, hit⟩
    rw [exec_keeps h g, withGrant_hit hit', hitRecord_eq]
    rfl

/-- Settles O26. -/
theorem headIsServed : Obligations.HeadIsServed := by
  intro s k r sent i w x rest h ho hctx hl hx hrest hn hc
  have hw := window_of_admitted h
  have head : w.head = some k := by rw [Window.head, hl, ← hx]; rfl
  have left : w.waiters.filter (·.agent != k) = rest := by
    rw [hl, List.filter_cons_of_neg (by simp [hx]), List.filter_eq_self]
    simpa using hrest
  refine ⟨exec_admitted h (.inl ho) ?_, fun hnil => ?_⟩
  · rw [windowStage_served hn (state_opened_iff.2 hctx) head hc, grantAccess_served _ hw left]
    rfl
  · obtain ⟨v, hv, context, waiters⟩ := window_withGrant (d := s.directory) (i := i) (k := k) (a := r.address)
      (w := w.headGranted s.clock k (sent.decided w.fields.cacheable) rest) (kind := sent.decided w.fields.cacheable)
    exact headService_empty hv (context.trans hctx) (waiters.trans hnil)

end Sys2Proof.Machine
end

section
/-! SUPPORT. The RELEASE that answers last (R111, R112, R117, R118, R127, R137): RECALLs withdrawn where nothing waits for the place, the
completion stages there, and the directory that the release leaves. -/

namespace Sys2Proof.Machine

open Sys2Proof.Safety

/-! ### RECALLs withdrawn where nothing waits for the place (R38) -/

/-- The record without its RECALL for slot `i`. -/
def AgentRecord.recalled (a : AgentRecord) (i : SlotId) : AgentRecord := { a with notices := withoutRecall a.notices i }

theorem recalled_eq_self {a : AgentRecord} {i : SlotId} (h : a.holdsRecall i = false) : a.recalled i = a := by
  have kept : withoutRecall a.notices i = a.notices := by
    rw [withoutRecall, List.filter_eq_self]
    intro n hn
    simpa only [Bool.not_eq_true', Bool.not_eq_true] using List.any_eq_false.1 h n hn
  rw [AgentRecord.recalled, kept]

theorem holdsRecall_recalled (a : AgentRecord) (i : SlotId) : (a.recalled i).holdsRecall i = false := by
  rw [AgentRecord.holdsRecall, List.any_eq_false]
  intro n hn
  simpa only [Bool.not_eq_true', Bool.not_eq_true] using (List.mem_filter.1 hn).2

section
variable {d : Directory} {i : SlotId} {k : Agent}

theorem withdrawRecall_none (h : (d.agent k).holdsRecall i = false) : d.withdrawRecall i k = d := by
  simp [Directory.withdrawRecall, h]

/-- With no candidate for the place, only the RECALL leaves. -/
theorem withdrawRecall_quiet (i : SlotId) (backlog : (d.agent k).backlog = []) (unsent : ∀ j, d.unsent j k = false) :
    d.withdrawRecall i k = withAgent d k ((d.agent k).recalled i) := by
  unfold Directory.withdrawRecall
  split
  · exact fillPlace_eq_self (d := withAgent d k ((d.agent k).recalled i))
      (by rw [agent_withAgent, if_pos rfl]; exact backlog) unsent
  · next hr => rw [recalled_eq_self (by simpa using hr), withAgent_self]

/-- Where one agent alone may have a RECALL queued, that one is withdrawn. -/
theorem withdrawAll_quiet (backlog : (d.agent k).backlog = []) (unsent : ∀ j, d.unsent j k = false)
    (others : ∀ j, j ≠ k → (d.agent j).holdsRecall i = false) :
    d.withdrawAll i = withAgent d k ((d.agent k).recalled i) := by
  have none_left : ∀ (e : Directory) (l : List Agent), (∀ j ∈ l, (e.agent j).holdsRecall i = false) →
      l.foldl (fun d j => d.withdrawRecall i j) e = e := by
    intro e l hl
    induction l with
    | nil => rfl
    | cons j l ih =>
      rw [List.foldl_cons, withdrawRecall_none (hl j List.mem_cons_self)]
      exact ih fun j hj => hl j (List.mem_cons_of_mem _ hj)
  obtain ⟨u, v, split, hu⟩ : ∃ u v, allAgents = u ++ k :: v ∧ k ∉ u := List.eq_append_cons_of_mem (List.mem_finRange k)
  rw [Directory.withdrawAll, split, List.foldl_append, none_left d u fun j hj => others j fun e => hu (e ▸ hj),
    List.foldl_cons, withdrawRecall_quiet i backlog unsent]
  refine none_left _ v fun j _ => ?_
  rw [agent_withAgent]
  split
  · exact holdsRecall_recalled _ i
  · next hj => exact others j hj

/-- Nothing waits for a place once the window has no context, or has agent `k` in no set. -/
theorem unsent_of_neither (quiet : NothingWaitsFor d k i) {e : Directory} (same : ∀ j, j ≠ i → e.member j k = d.member j k)
    (here : e.member i k = .neither) (j : SlotId) : e.unsent j k = false := by
  by_cases hj : j = i
  · rw [hj, Directory.unsent, here]
  · rw [Directory.unsent, same j hj]
    exact quiet.2 j hj

theorem member_withWindow_other {j : SlotId} (hj : j ≠ i) (w : Window) : (withWindow d i w).member j k = d.member j k := by
  simp [Directory.member, Directory.context, hj]

theorem member_withWindow_none {w : Window} (h : w.context = none) : (withWindow d i w).member i k = .neither := by
  simp [Directory.member, Directory.context, h]

theorem member_withWindow_some {w : Window} {c : RecallContext} (h : w.context = some c) :
    (withWindow d i w).member i k = look c.members k := member_of_context ((window_withWindow d i i w).trans (if_pos rfl)) h

/-! ### The completion stages (R118, R127, R137) -/

/-- The context of slot `i` is gone, and its RECALL with it. -/
theorem withdrawAll_closed {w : Window} (hw : d.window i = some w) (quiet : NothingWaitsFor d k i)
    (others : ∀ j, j ≠ k → (d.agent j).holdsRecall i = false) :
    (d.modWindow i fun w => { w with context := none }).withdrawAll i =
      withAgent (withWindow d i { w with context := none }) k ((d.agent k).recalled i) := by
  rw [modWindow_eq_withWindow _ hw]
  exact withdrawAll_quiet (d := withWindow d i { w with context := none }) quiet.1
    (unsent_of_neither quiet (fun j hj => member_withWindow_other hj _) (member_withWindow_none rfl)) others

theorem closeContext_quiet {w : Window} (now : Tick) (hw : d.window i = some w) (quiet : NothingWaitsFor d k i)
    (others : ∀ j, j ≠ k → (d.agent j).holdsRecall i = false) :
    d.closeContext now i =
      (withAgent (withWindow d i { w with context := none, idle := idleFrom w.fields.idleLimit now }) k
        ((d.agent k).recalled i)).headService now i := by
  have hv : (withWindow d i { w with context := none }).window i = some { w with context := none } := by simp
  unfold Directory.closeContext
  dsimp only
  rw [withdrawAll_closed hw quiet others, modWindow_withAgent _ hv, withWindow_withWindow]
  rfl

/-- The Forced count of the context, as the records give it. -/
theorem forcedWord_eq {w : Window} {c : RecallContext} (hw : d.window i = some w) (hc : w.context = some c) :
    d.forcedWord i = c.forcedCount.setWidth 32 := by
  simp [Directory.forcedWord, Directory.context, hw, hc]

theorem applyRevision_eq {w : Window} {c : RecallContext} {p : PendingRevision} (hw : d.window i = some w)
    (hc : w.context = some c) (hr : w.revision = some p) :
    d.applyRevision i =
      withEnd (withWindow d i (w.applied p))
        { tag := p.tag, kind := 4, status := .done, word1 := (slotHandle d i).setWidth 32
          word2 := c.forcedCount.setWidth 32, word3 := 0, word4 := 0, word5 := 0 } := by
  unfold Directory.applyRevision
  rw [hw, Option.bind_some, hr]
  dsimp only
  rw [modWindow_eq_withWindow _ hw, forcedWord_eq hw hc]
  rfl

/-- That nothing waits for agent `k`'s place depends on its backlog and its places in the other windows. -/
theorem nothingWaits_congr {e : Directory} (quiet : NothingWaitsFor d k i) (backlog : (e.agent k).backlog = [])
    (same : ∀ j, j ≠ i → e.member j k = d.member j k) : NothingWaitsFor e k i :=
  ⟨backlog, fun j hj => by rw [Directory.unsent, same j hj]; exact quiet.2 j hj⟩

/-- The revision is applied, its REVISE has its record, and the context ends (R118, R127). -/
theorem closeContext_revised {w : Window} {c : RecallContext} {p : PendingRevision} (now : Tick) (hw : d.window i = some w)
    (hc : w.context = some c) (hr : w.revision = some p) (quiet : NothingWaitsFor d k i)
    (others : ∀ j, j ≠ k → (d.agent j).holdsRecall i = false) :
    (d.applyRevision i).closeContext now i =
      (withEnd
        (withAgent
          (withWindow d i
            { w with fields := p.fields, revision := none, context := none, idle := idleFrom p.fields.idleLimit now }) k
          ((d.agent k).recalled i))
        { tag := p.tag, kind := 4, status := .done, word1 := (slotHandle d i).setWidth 32
          word2 := c.forcedCount.setWidth 32, word3 := 0, word4 := 0, word5 := 0 }).headService now i := by
  let revised := withWindow d i (w.applied p)
  have hv : revised.window i = some (w.applied p) := (window_withWindow d i i _).trans (if_pos rfl)
  have still : NothingWaitsFor revised k i := nothingWaits_congr quiet quiet.1 fun j hj => member_withWindow_other hj _
  rw [applyRevision_eq hw hc hr]
  refine (closeContext_quiet (d := withEnd revised _) now hv still others).trans ?_
  rw [← withWindow_withWindow d i (w.applied p)]
  rfl

theorem withFreed_withWindow (d : Directory) (i : SlotId) (w : Window) : withFreed (withWindow d i w) i = withFreed d i := by
  simp [withFreed, withWindow, put_put]

/-- The WATCH of a window that ends has its record (R137, step 2; R154). -/
def Directory.watchGone (d : Directory) (watch : Option Watch) (handle : Handle) : Directory :=
  match watch with
  | none => d
  | some x =>
    withEnd d
      { tag := x.tag, kind := 6, status := .windowGone, word1 := handle.setWidth 32, word2 := 0, word3 := 0, word4 := 0,
        word5 := 0 }

theorem withRetired_eq (d : Directory) (i : SlotId) (watch : Option Watch) (t : Tag) (handle : Handle) (forced : BitVec 8) :
    withRetired d i watch t handle forced =
      withEnd (withFreed (d.watchGone watch handle) i)
        { tag := t, kind := 5, status := .done, word1 := handle.setWidth 32, word2 := forced.setWidth 32, word3 := 0,
          word4 := 0, word5 := 0 } := rfl

/-- The watch ends with its window. -/
theorem freeSlot_endWatch {w : Window} (hw : d.window i = some w) :
    (d.endWatch i).freeSlot i = withFreed (d.watchGone w.watch (slotHandle d i)) i := by
  rw [Directory.endWatch, hw, Option.bind_some]
  cases w.watch with
  | none => rfl
  | some x =>
    dsimp only
    rw [modWindow_eq_withWindow _ hw]
    exact congrArg (fun y => withEnd y _) (withFreed_withWindow d i _)

theorem watchGone_withWindow (d : Directory) (i : SlotId) (w : Window) (watch : Option Watch) (handle : Handle) :
    withFreed ((withWindow d i w).watchGone watch handle) i = withFreed (d.watchGone watch handle) i := by
  cases watch with
  | none => exact withFreed_withWindow d i w
  | some x => exact congrArg (fun y => withEnd y _) (withFreed_withWindow d i w)

theorem withRetired_withWindow (d : Directory) (i : SlotId) (w : Window) (watch : Option Watch) (t : Tag) (handle : Handle)
    (forced : BitVec 8) : withRetired (withWindow d i w) i watch t handle forced = withRetired d i watch t handle forced := by
  rw [withRetired_eq, watchGone_withWindow, withRetired_eq]

theorem agent_withRetired (d : Directory) (i : SlotId) (watch : Option Watch) (t : Tag) (handle : Handle)
    (forced : BitVec 8) (j : Agent) : (withRetired d i watch t handle forced).agent j = d.agent j := by
  cases watch <;> rfl

theorem window_withRetired (d : Directory) (i : SlotId) (watch : Option Watch) (t : Tag) (handle : Handle)
    (forced : BitVec 8) : (withRetired d i watch t handle forced).window i = none :=
  (window_freeSlot (d.watchGone watch handle) i i).trans (if_pos rfl)

theorem completeRetirement_quiet {w : Window} {c : RecallContext} {t : Tag} (hw : d.window i = some w)
    (hc : w.context = some c) (ht : w.retireTag = some t) (quiet : NothingWaitsFor d k i)
    (others : ∀ j, j ≠ k → (d.agent j).holdsRecall i = false) :
    d.completeRetirement i =
      withRetired (withAgent d k ((d.agent k).recalled i)) i w.watch t (slotHandle d i) c.forcedCount := by
  have hv : (withWindow (withAgent d k ((d.agent k).recalled i)) i { w with context := none }).window i =
      some { w with context := none } := by simp
  unfold Directory.completeRetirement
  dsimp only
  rw [hw, Option.bind_some, ht, withdrawAll_closed hw quiet others, forcedWord_eq hw hc, withRetired_eq,
    ← watchGone_withWindow _ i { w with context := none }, ← withAgent_withWindow, freeSlot_endWatch hv]
  simp only [slotHandle_withWindow, slotHandle_withAgent]
  rfl

/-! ### A release that is the last answer (R111, R117) -/

/-- The record of an agent that has answered, from its place in the recall (R30, R38, R111, R112). -/
def AgentRecord.answered (a : AgentRecord) (i : SlotId) (m : Membership) : AgentRecord :=
  if m.isOutstanding then { a.recalled i with faultScore := loweredByOne a.faultScore } else a

theorem answered_keeps (a : AgentRecord) (i : SlotId) (m : Membership) :
    (a.answered i m).backlog = a.backlog ∧ (a.answered i m).state = a.state ∧
      (a.answered i m).holdingCount = a.holdingCount := by
  unfold AgentRecord.answered
  split <;> exact ⟨rfl, rfl, rfl⟩

theorem isMember_of_inSet {c : RecallContext} (h : InSet c k) : (look c.members k).isMember = true := by
  unfold InSet at h
  cases hm : look c.members k with
  | neither => exact absurd hm h
  | blocked => rfl
  | outstanding x => rfl

theorem waits_of_last {c : RecallContext} (last : ∀ j, j ≠ k → ¬ InSet c j) : (c.setMember k .neither).waits = false := by
  rw [RecallContext.waits, List.any_eq_false]
  intro j _
  rw [members_setMember]
  split
  · nofun
  · next hj => rw [not_not.1 (last j hj)]; nofun

/-- The last agent waited for leaves its set, and the recall completes. -/
theorem reportRelease_last {w : Window} {c : RecallContext} {h : Holding} (now : Tick) (hw : d.window i = some w)
    (hc : w.context = some c) (asked : InSet c k) (meets : c.satisfied k h = true) (last : ∀ j, j ≠ k → ¬ InSet c j)
    (quiet : NothingWaitsFor d k i) :
    d.reportRelease now i k h =
      (withAgent (withWindow d i { w with context := some (c.setMember k .neither) }) k
        ((d.agent k).answered i (look c.members k))).complete now i (c.setMember k .neither) := by
  let left := withWindow d i { w with context := some (c.setMember k .neither) }
  have unsent : ∀ j, left.unsent j k = false :=
    unsent_of_neither quiet (fun j hj => member_withWindow_other hj _)
      ((member_withWindow_some rfl).trans (by simp))
  have reported : (if (look c.members k).isOutstanding then (left.withdrawRecall i k).creditScore k else left) =
      withAgent left k ((d.agent k).answered i (look c.members k)) := by
    unfold AgentRecord.answered
    split
    · rw [withdrawRecall_quiet (d := left) i quiet.1 unsent, Directory.creditScore, modAgent_eq_withAgent, withAgent_withAgent,
        agent_withAgent, if_pos rfl]
      rfl
    · exact (withAgent_self left k).symm
  unfold Directory.reportRelease
  rw [context_eq, hw, Option.bind_some, hc]
  dsimp only
  rw [isMember_of_inSet asked, meets, modContext_eq _ hw hc]
  show Directory.checkCompletion (if _ then (left.withdrawRecall i k).creditScore k else left) now i = _
  rw [reported]
  simp [Directory.checkCompletion, context_eq, left, waits_of_last last]

end

end Sys2Proof.Machine
end

section
/-! SUPPORT. The last answer, from the RELEASE to the end of its event (R65, R111, R117, R161): the three endings as the statement gives
them. -/

namespace Sys2Proof.Machine

open Sys2Proof.Safety

/-! ### A holding released to a level (R65, R32) -/

/-- The window once agent `k` has released its holding to a level. -/
def Window.releasedTo (w : Window) (k : Agent) (l : Level) : Window :=
  { w with holdings := put w.holdings k l.holding, pins := if l = .none then put w.pins k 0 else w.pins }

theorem holding_releasedTo (w : Window) (k : Agent) (l : Level) : (w.releasedTo k l).holding k = l.holding := by
  simp [Window.releasedTo, Window.holding]

/-- The agent's record once it has released a holding above the level. -/
def AgentRecord.releasedTo (a : AgentRecord) (l : Level) : AgentRecord :=
  { a with holdingCount := a.holdingCount - if l = .none then 1 else 0 }

theorem countAfter_lowered {n : Nat} {h : Holding} {l : Level} (low : l.holding.rank < h.rank) :
    countAfter n h l.holding = n - if l = .none then 1 else 0 := by
  cases h <;> cases l <;> simp_all [countAfter, Level.holding, Holding.held, Holding.rank]

theorem setHolding_released {d : Directory} {i : SlotId} {k : Agent} {w : Window} {l : Level} (hw : d.window i = some w)
    (low : l.holding.rank < (w.holding k).rank) :
    (if l.holding = .none then (d.setHolding i k l.holding).setPins i k 0 else d.setHolding i k l.holding) =
      withAgent (withWindow d i (w.releasedTo k l)) k ((d.agent k).releasedTo l) := by
  unfold Window.releasedTo AgentRecord.releasedTo
  rw [← countAfter_lowered low]
  cases l with
  | none => exact d.lower_eq _ true hw
  | shared => exact d.lower_eq _ false hw

/-! ### The end of the event (R161) -/

/-- An event completes no detach where it brings no DETACHING agent's Holding Count to 0. -/
theorem settle_unemptied {before after : Directory} {now : Tick}
    (h : ∀ j, (after.agent j).state = .detaching → (after.agent j).holdingCount = 0 → (before.agent j).holdingCount = 0) :
    after.settle now before = after := by
  have e : before.emptied after = [] := by
    rw [Directory.emptied, List.filter_eq_nil_iff]
    intro j _ hj
    simp only [Bool.and_eq_true, beq_iff_eq, bne_iff_ne] at hj
    obtain ⟨⟨detaching, empty⟩, held⟩ := hj
    exact held (h j detaching empty)
  simp [Directory.settle, e, Directory.completeDetaches, freeOrder]

/-! ### The last answer -/

section
variable {s : State} {k : Agent} {r : Request} {i : SlotId} {w : Window} {c : RecallContext} {l : Level}

/-- The directory when the last agent waited for has left its set, before the recall completes. -/
def lastAnswered (s : State) (k : Agent) (i : SlotId) (w : Window) (c : RecallContext) (l : Level) : Directory :=
  withAgent (withWindow s.directory i { w.releasedTo k l with context := some (c.setMember k .neither) }) k
    (((s.directory.agent k).releasedTo l).answered i (look c.members k))

theorem window_lastAnswered :
    (lastAnswered s k i w c l).window i = some { w.releasedTo k l with context := some (c.setMember k .neither) } := by
  simp [lastAnswered]

theorem agent_lastAnswered (j : Agent) :
    (lastAnswered s k i w c l).agent j =
      if j = k then ((s.directory.agent k).releasedTo l).answered i (look c.members k) else s.directory.agent j := by
  simp [lastAnswered]

theorem slotHandle_lastAnswered : slotHandle (lastAnswered s k i w c l) i = slotHandle s.directory i := by
  simp [lastAnswered]

/-- Taking the RECALL out of the queue keeps every agent's state and Holding Count. -/
theorem recalled_lastAnswered (j : Agent) :
    (if j = k then ((lastAnswered s k i w c l).agent k).recalled i else s.directory.agent j).state =
        ((lastAnswered s k i w c l).agent j).state ∧
      (if j = k then ((lastAnswered s k i w c l).agent k).recalled i else s.directory.agent j).holdingCount =
        ((lastAnswered s k i w c l).agent j).holdingCount := by
  by_cases hj : j = k
  · subst hj
    rw [if_pos rfl]
    exact ⟨rfl, rfl⟩
  · rw [if_neg hj, agent_lastAnswered, if_neg hj]
    exact ⟨rfl, rfl⟩

theorem satisfied_of_meets {h : Holding} (meets : ∃ t, look c.targets k = some t ∧ h.rank ≤ t.holding.rank) :
    c.satisfied k h = true := by
  obtain ⟨t, ht, le⟩ := meets
  simpa [RecallContext.satisfied, ht, Holding.above] using le

theorem nothingWaits_lastAnswered (h : LastAnswer s k r i w c l) : NothingWaitsFor (lastAnswered s k i w c l) k i := by
  refine nothingWaits_congr h.quiet ?_ fun j hj => member_withWindow_other hj _
  rw [agent_lastAnswered, if_pos rfl, (answered_keeps _ _ _).1]
  exact h.quiet.1

theorem holdsRecall_lastAnswered (h : LastAnswer s k r i w c l) (j : Agent) (hj : j ≠ k) :
    ((lastAnswered s k i w c l).agent j).holdsRecall i = false := by
  rw [agent_lastAnswered, if_neg hj]
  exact h.delivered j hj

/-- The record that the statement gives: the RECALL is gone from the queue of a Blocked agent too. -/
theorem afterAnswer_eq (h : LastAnswer s k r i w c l) (v : Window) :
    afterAnswer s k i (look c.members k) l v =
      withAgent (withWindow s.directory i v) k (((lastAnswered s k i w c l).agent k).recalled i) := by
  rw [agent_lastAnswered, if_pos rfl]
  have asked := h.asked
  unfold afterAnswer InSet at *
  cases hm : look c.members k with
  | neither => exact absurd hm asked
  | blocked => rfl
  | outstanding x =>
    have once : withoutRecall (withoutRecall (s.directory.agent k).notices i) i =
        withoutRecall (s.directory.agent k).notices i := by simp [withoutRecall]
    simp [AgentRecord.answered, AgentRecord.recalled, AgentRecord.releasedTo, Membership.isOutstanding, once, loweredByOne]

theorem lowerByRelease_last (h : LastAnswer s k r i w c l) :
    s.directory.lowerByRelease s.clock i k l.holding =
      ((lastAnswered s k i w c l).complete s.clock i (c.setMember k .neither)).settle s.clock s.directory := by
  have hw := h.found.found.1
  unfold Directory.lowerByRelease
  dsimp only
  rw [setHolding_released hw h.lowers, reportRelease_last (w := w.releasedTo k l) (c := c) s.clock (by simp) h.context h.asked
    (satisfied_of_meets h.meets) h.last]
  · rw [withAgent_withWindow, withWindow_withWindow, withAgent_withAgent, agent_withAgent, if_pos rfl]
    rfl
  · refine nothingWaits_congr h.quiet ?_ fun j hj => member_withWindow_other hj _
    rw [agent_withAgent, if_pos rfl]
    exact h.quiet.1

/-- The verdict and the directory, from what the completion stages leave. -/
theorem exec_lastAnswer (h : LastAnswer s k r i w c l) {e : Directory}
    (he : (lastAnswered s k i w c l).complete s.clock i (c.setMember k .neither) = e)
    (agents : ∀ j, (e.agent j).state = ((lastAnswered s k i w c l).agent j).state ∧
      (e.agent j).holdingCount = ((lastAnswered s k i w c l).agent j).holdingCount)
    {x : Holding} (hx : ((e.window i).map (·.holding k)).getD .none = x) :
    exec .release s = .next (answered s k (granted w (slotHandle s.directory i) x r.address) e) := by
  have settled : e.settle s.clock s.directory = e := by
    refine settle_unemptied fun j detaching empty => ?_
    obtain ⟨state, count⟩ := agents j
    rw [state] at detaching
    rw [count] at empty
    rw [agent_lastAnswered] at detaching empty
    split at detaching
    · next hj =>
      obtain ⟨_, state', count'⟩ := answered_keeps ((s.directory.agent k).releasedTo l) i (look c.members k)
      rw [if_pos hj, count'] at empty
      rw [state'] at detaching
      subst hj
      have goes := h.goesOn detaching
      simp only [AgentRecord.releasedTo] at empty
      split at empty
      · next hl =>
        have := goes hl
        omega
      · exact empty
    · next hj => rwa [if_neg hj] at empty
  have released : s.directory.decideReleaseRequest s.clock k r = (e, granted w (slotHandle s.directory i) x r.address) := by
    rw [decideRelease_of_found h.found h.level, Directory.decideRelease, if_pos (above_iff.2 h.lowers)]
    dsimp only
    rw [lowerByRelease_last h, he, settled, Directory.releaseVerdict, answer_grant, hx]
    rfl
  rw [exec_release h.found.next, released]

/-- The ending in which the window goes on: it is OPEN with these fields, and its head is served. -/
theorem exec_lastAnswer_open (h : LastAnswer s k r i w c l) {d : Directory} {v : Window} (hv : d.window i = some v)
    (he : (lastAnswered s k i w c l).complete s.clock i (c.setMember k .neither) = d.headService s.clock i)
    (agents : ∀ j, d.agent j = if j = k then ((lastAnswered s k i w c l).agent k).recalled i else s.directory.agent j)
    (holding : v.holding k = l.holding) (hctx : v.context = none) (list : v.waiters = w.waiters) :
    exec .release s =
        .next (answered s k (granted w (slotHandle s.directory i) l.holding r.address) (d.headService s.clock i)) ∧
      (w.waiters = [] → d.headService s.clock i = d) := by
  obtain ⟨⟨u, hu, _, holdings, _⟩, _⟩ := headService_keeps s.clock hv
  refine ⟨exec_lastAnswer h he (fun j => ?_) ?_, fun hnil => headService_empty hv hctx (list.trans hnil)⟩
  · obtain ⟨state, count⟩ := headService_agents s.clock hv j
    rw [state, count, agents j]
    exact recalled_lastAnswered j
  · rw [hu, Option.map_some, Option.getD_some, Window.holding, holdings]
    exact holding

theorem agent_afterAnswer (h : LastAnswer s k r i w c l) (v : Window) (j : Agent) :
    (afterAnswer s k i (look c.members k) l v).agent j =
      if j = k then ((lastAnswered s k i w c l).agent k).recalled i else s.directory.agent j := by
  rw [afterAnswer_eq h, agent_withAgent]
  rfl

theorem window_afterAnswer (s : State) (k : Agent) (i : SlotId) (m : Membership) (l : Level) (v : Window) :
    (afterAnswer s k i m l v).window i = some v := by
  simp [afterAnswer]

theorem withAgent_lastAnswered (v : Window) (a : AgentRecord) :
    withAgent (withWindow (lastAnswered s k i w c l) i v) k a = withAgent (withWindow s.directory i v) k a := by
  rw [lastAnswered, withAgent_withWindow, withWindow_withWindow, withAgent_withAgent]

/-- A recall of neither a REVISE nor a RETIRE ends. -/
theorem complete_plain (h : LastAnswer s k r i w c l) (ht : c.retire = false) (hr : c.revision = false) :
    (lastAnswered s k i w c l).complete s.clock i (c.setMember k .neither) =
      (afterAnswer s k i (look c.members k) l
        { w.releasedTo k l with context := none, idle := idleFrom w.fields.idleLimit s.clock }).headService s.clock i := by
  rw [Directory.complete, if_neg (by simpa [RecallContext.setMember] using ht),
    if_neg (by simpa [RecallContext.setMember] using hr),
    closeContext_quiet s.clock window_lastAnswered (nothingWaits_lastAnswered h) (holdsRecall_lastAnswered h),
    afterAnswer_eq h, withAgent_lastAnswered]
  rfl

/-- A recall of a REVISE ends: the pending fields take the place of the present ones, and the REVISE has its record (R127). -/
theorem complete_revision (h : LastAnswer s k r i w c l) {p : PendingRevision} (ht : c.retire = false)
    (hr : c.revision = true) (hp : w.revision = some p) :
    (lastAnswered s k i w c l).complete s.clock i (c.setMember k .neither) =
      (withEnd
        (afterAnswer s k i (look c.members k) l
          { w.releasedTo k l with
            fields := p.fields, revision := none, context := none, idle := idleFrom p.fields.idleLimit s.clock })
        { tag := p.tag, kind := 4, status := .done, word1 := (slotHandle s.directory i).setWidth 32
          word2 := c.forcedCount.setWidth 32, word3 := 0, word4 := 0, word5 := 0 }).headService s.clock i := by
  rw [Directory.complete, if_neg (by simpa [RecallContext.setMember] using ht),
    if_pos (by simpa [RecallContext.setMember] using hr),
    closeContext_revised s.clock window_lastAnswered rfl hp (nothingWaits_lastAnswered h) (holdsRecall_lastAnswered h),
    afterAnswer_eq h, slotHandle_lastAnswered, withAgent_lastAnswered]
  rfl

/-- A recall of a RETIRE ends: its window is gone (R137). -/
theorem complete_retirement (h : LastAnswer s k r i w c l) {t : Tag} (ht : c.retire = true) (htag : w.retireTag = some t) :
    (lastAnswered s k i w c l).complete s.clock i (c.setMember k .neither) =
      withRetired (afterAnswer s k i (look c.members k) l w) i w.watch t (slotHandle s.directory i) c.forcedCount := by
  rw [Directory.complete, if_pos (by simpa [RecallContext.setMember] using ht),
    completeRetirement_quiet window_lastAnswered rfl htag (nothingWaits_lastAnswered h) (holdsRecall_lastAnswered h),
    slotHandle_lastAnswered, afterAnswer_eq h, ← withAgent_withWindow, withRetired_withWindow, lastAnswered,
    withAgent_withAgent, ← withAgent_withWindow, withRetired_withWindow]
  rfl

end

/-- Settles O32. -/
theorem lastReleaseCompletesRecall : Obligations.LastReleaseCompletesRecall := by
  refine ⟨fun s k r i w c l h ht hr => ?_, fun s k r i w c l p h ht hr hp => ?_, fun s k r i w c l t h ht htag => ?_⟩
  · exact exec_lastAnswer_open h (window_afterAnswer s k i (look c.members k) l _) (complete_plain h ht hr)
      (agent_afterAnswer h _) (holding_releasedTo w k l) rfl rfl
  · exact exec_lastAnswer_open h (window_afterAnswer s k i (look c.members k) l _) (complete_revision h ht hr hp)
      (agent_afterAnswer h _) (holding_releasedTo w k l) rfl rfl
  · refine exec_lastAnswer h (complete_retirement h ht htag) (fun j => ?_) (by rw [window_withRetired]; rfl)
    rw [agent_withRetired, agent_afterAnswer h]
    exact recalled_lastAnswered j

end Sys2Proof.Machine
end

section
/-! SUPPORT. A law of the window table and the events: what must keep the law for every step to keep it. An event works on the table by
one operation of spec files 02 to 09; the other events leave the windows as they are, or leave none. -/

namespace Sys2Proof.Machine

open Sys2Proof.Safety

/-- Every operation by which an event works on the windows keeps the law. -/
structure KeptByEvents (P : Directory → Prop) : Prop where
  same : ∀ {d d' : Directory}, P d → (∀ i, d'.window i = d.window i) → P d'
  blank : ∀ {d : Directory}, (∀ i, d.window i = none) → P d
  access : ∀ {d : Directory} (now k r sent), P d → P (d.decideAccess now k r sent).1
  release : ∀ {d : Directory} {i w} (now k a l), d.window i = some w → P d → P (d.decideRelease now k a l i w).1
  pin : ∀ {d : Directory} {i w} (now k a), d.window i = some w → P d → P (d.decidePin now k a i w).1
  unpin : ∀ {d : Directory} {i w} (now k a), d.window i = some w → P d → P (d.decideUnpin now k a i w).1
  withdraw : ∀ {d : Directory} {i w} (now k a), d.window i = some w → P d → P (d.decideWithdraw now k a i w).1
  verdict : ∀ {d : Directory} (k), P d → P (d.verdictGiven k)
  notice : ∀ {d : Directory} (k n), P d → P (d.takeNotice k n)
  deadline : ∀ {d : Directory} (now i k x), P d → P (d.passDeadline now i k x)
  lapse : ∀ {d : Directory} (now i r), P d → P (d.lapse now i r)
  idle : ∀ {d : Directory} (now i w), P d → P (d.passIdle now i w)
  clock : ∀ {d : Directory} (now), P d → P (d.advance now)
  opening : ∀ {d : Directory} (now e), P d → P (d.openWindow now e)
  revise : ∀ {d : Directory} (now e), P d → P (d.revise now e)
  retire : ∀ {d : Directory} (now e), P d → P (d.retire now e)
  watch : ∀ {d : Directory} (e), P d → P (d.startWatch e)
  abort : ∀ {d : Directory} (now e), P d → P (d.abort now e)
  detach : ∀ {d : Directory} (now e k), P d → P (d.acceptDetach now e k)
  loss : ∀ {d : Directory} (now k), P d → P (d.agentLoss now k)

namespace KeptByEvents

variable {P : Directory → Prop} {d : Directory} {s : State}

/-- A request of a kind other than an access leaves the table as it is, or is decided for its matched window. -/
theorem decideOther (h : P d) (k : Agent) (r : Request) {decide : SlotId → Window → Directory × Verdict}
    (g : ∀ i w, d.window i = some w → P (decide i w).1) : P (d.decideOther k r decide).1 := by
  unfold Directory.decideOther
  split
  · exact h
  · split
    · exact h
    · next i w hm => exact g i w (matched_window hm)

theorem decideReleaseRequest (kept : KeptByEvents P) (h : P d) (now : Tick) (k : Agent) (r : Request) :
    P (d.decideReleaseRequest now k r).1 := by
  unfold Directory.decideReleaseRequest
  split
  · exact h
  · exact h
  · exact decideOther h k r fun i w hw => kept.release now k _ _ hw h

theorem takeRequest (h : P s.directory) (wants : BitVec 4 → Bool) {decide : Directory → Agent → Request → Directory × Verdict}
    (g : ∀ k r, P (decide s.directory k r).1) : P (s.takeRequest wants decide).directory := by
  obtain e | ⟨k, r, _, _, e⟩ := takeRequest_cases s wants decide
  · rwa [e]
  · exact e ▸ g k r

theorem takeEntry (h : P s.directory) (wants : BitVec 4 → Bool) {run : Directory → Entry → Directory}
    (g : ∀ e, P (run s.directory e)) : P (s.takeEntry wants run).directory := by
  obtain e | ⟨x, rest, _, _, e⟩ := takeEntry_cases s wants run
  · rwa [e]
  · exact e ▸ g x

theorem reply (kept : KeptByEvents P) (h : P d) (e : Entry) (x : Status) (v : Word) : P (d.reply e x v) :=
  kept.same h fun _ => rfl

theorem takeCommand (kept : KeptByEvents P) (h : P s.directory) (kind : CommandKind) {run : Directory → Entry → Directory}
    (g : ∀ e, P (run s.directory e)) : P (s.takeCommand kind run).directory := by
  refine takeEntry h _ fun e => ?_
  split
  · exact kept.reply h e _ _
  · exact g e

theorem query (kept : KeptByEvents P) (h : P d) (e : Entry) : P (d.query e) := by
  refine kept.same h fun i => ?_
  unfold Directory.query
  dsimp only
  split <;> rfl

theorem queryAddr (kept : KeptByEvents P) (h : P d) (e : Entry) : P (d.queryAddr e) := by
  refine kept.same h fun i => ?_
  unfold Directory.queryAddr
  split <;> rfl

/-- A command on an agent that names none is refused. -/
theorem forAgent (kept : KeptByEvents P) (h : P d) (e : Entry) {run : Agent → Directory} (g : ∀ k, P (run k)) :
    P (d.forAgent e run) := by
  unfold Directory.forAgent
  split
  · exact kept.reply h e _ _
  · exact g _

theorem admitAgent (kept : KeptByEvents P) (h : P d) (e : Entry) : P (d.admitAgent e) := by
  refine kept.forAgent h e fun k => kept.same h fun i => ?_
  repeat' split
  all_goals rfl

theorem setSettings (kept : KeptByEvents P) (h : P d) (e : Entry) : P (d.setSettings e) := by
  refine kept.forAgent h e fun k => kept.same h fun i => ?_
  repeat' split
  all_goals rfl

theorem detachAgent (kept : KeptByEvents P) (h : P d) (now : Tick) (e : Entry) : P (d.detachAgent now e) := by
  refine kept.forAgent h e fun k => ?_
  split
  · exact kept.detach now e k h
  · exact kept.reply h e _ _

/-- An agent lost, after the event has set its state (R164). -/
theorem lose (kept : KeptByEvents P) (h : P d) (now : Tick) (k : Agent) (f : AgentRecord → AgentRecord) :
    P ((d.modAgent k f).agentLoss now k) := kept.loss now k (kept.same h fun _ => rfl)

theorem queryAgent (kept : KeptByEvents P) (h : P d) (e : Entry) : P (d.queryAgent e) :=
  kept.forAgent h e fun _ => kept.same h fun _ => rfl

theorem fenceAgent (kept : KeptByEvents P) (h : P d) (now : Tick) (e : Entry) : P (d.fenceAgent now e) := by
  refine kept.forAgent h e fun k => ?_
  split
  · exact kept.reply (kept.lose h now k _) e _ _
  · exact kept.reply h e _ _

theorem writeControl (kept : KeptByEvents P) (h : P s.directory) (v : Word) : P (s.writeControl v).directory := by
  unfold State.writeControl
  dsimp only
  split
  · exact kept.blank (blank_afterReset _).windows
  · exact h

theorem submit (kept : KeptByEvents P) (h : P s.directory) (v : Word) : P (s.submit v).directory := by
  refine kept.same h fun i => ?_
  unfold State.submit
  split <;> rfl

theorem writeRegister (kept : KeptByEvents P) (h : P s.directory) (r : Register) (v : Word) :
    P (s.writeRegister r v).directory := by
  cases r with
  | control => exact kept.writeControl h v
  | command => exact kept.submit h v
  | _ => exact kept.same h fun _ => rfl

/-- Every command keeps the law. -/
theorem exec (kept : KeptByEvents P) (c : Instr) {t : State} (h : P s.directory) (e : exec c s = .next t) : P t.directory := by
  have next : ∀ {x : State}, P x.directory → (.next x : Host.Outcome State Fault Refusal) = .next t → P t.directory := by
    rintro x hx ⟨⟩
    exact hx
  cases c with
  | fetch | share | claim | store => exact next (takeRequest h _ fun k r => kept.access s.clock k r _ h) e
  | release => exact next (takeRequest h _ fun k r => kept.decideReleaseRequest h s.clock k r) e
  | pin => exact next (takeRequest h _ fun k r => decideOther h k r fun _ _ hw => kept.pin s.clock k _ hw h) e
  | unpin => exact next (takeRequest h _ fun k r => decideOther h k r fun _ _ hw => kept.unpin s.clock k _ hw h) e
  | withdraw => exact next (takeRequest h _ fun k r => decideOther h k r fun _ _ hw => kept.withdraw s.clock k _ hw h) e
  | badRequest => exact next (takeRequest h _ fun _ _ => h) e
  | requestAccepted k message => refine next ?_ e; split <;> exact h
  | verdictReturned k => refine next ?_ e; split <;> first | exact kept.verdict k h | exact h
  | noticeTaken k =>
    refine next ?_ e
    split
    · exact h
    · split
      · exact h
      · exact kept.notice k _ h
  | recallDeadline i k => refine next ?_ e; split <;> first | exact h | exact kept.deadline s.clock i k _ h
  | reservationLapse i => refine next ?_ e; split <;> first | exact h | exact kept.lapse s.clock i _ h
  | idleDeadline i => refine next ?_ e; split <;> first | exact h | exact kept.idle s.clock i _ h
  | clockAdvance => refine next ?_ e; split <;> first | exact h | exact kept.clock _ h
  | openWindow => exact next (kept.takeCommand h _ fun x => kept.opening s.clock x h) e
  | query => exact next (kept.takeCommand h _ fun x => kept.query h x) e
  | queryAddr => exact next (kept.takeCommand h _ fun x => kept.queryAddr h x) e
  | revise => exact next (kept.takeCommand h _ fun x => kept.revise s.clock x h) e
  | retire => exact next (kept.takeCommand h _ fun x => kept.retire s.clock x h) e
  | watch => exact next (kept.takeCommand h _ fun x => kept.watch x h) e
  | abort => exact next (kept.takeCommand h _ fun x => kept.abort s.clock x h) e
  | agentAdmit => exact next (kept.takeCommand h _ fun x => kept.admitAgent h x) e
  | agentSet => exact next (kept.takeCommand h _ fun x => kept.setSettings h x) e
  | agentQuery => exact next (kept.takeCommand h _ fun x => kept.queryAgent h x) e
  | agentDetach => exact next (kept.takeCommand h _ fun x => kept.detachAgent h s.clock x) e
  | agentFence => exact next (kept.takeCommand h _ fun x => kept.fenceAgent h s.clock x) e
  | unknownCommand => exact next (takeEntry h _ fun x => kept.reply h x _ _) e
  | registerWrite index v => exact next (kept.writeRegister h _ v) e
  | completionPop _ => exact next (x := s.popCompletion) (kept.same h fun _ => rfl) e
  | clockResolutionSet x => exact next (x := s.setResolution x) h e
  | directoryReset x => exact next (x := (s.setResolution x).directoryReset) (kept.blank (blank_afterReset _).windows) e
  | intEnableWrite v => exact next (x := s.setEnables v) h e
  | alertStatusClear v => exact next (x := s.clearAlertStatus v) (kept.same h fun _ => rfl) e
  | alertAgentsClear v => exact next (x := s.clearAlertAgents v) (kept.same h fun _ => rfl) e
  | agentReset k =>
    exact next (x := { s with ports := put s.ports k .empty, directory := s.directory.resetAgent s.clock k })
      (kept.same (kept.lose h s.clock k _) fun _ => rfl) e
  | powerOn => exact next (x := s.powerOn) (kept.blank (blank_powerOn s).windows) e

/-- Every step keeps the law. -/
theorem step (kept : KeptByEvents P) {t : State} (h : P s.directory) (e : step s = .next t) : P t.directory := by
  unfold Machine.step at e
  split at e
  · cases e
    exact h
  · next c rest _ => exact kept.exec c (s := { s with pending := rest }) h e

end KeptByEvents

end Sys2Proof.Machine
end

section
/-! SUPPORT. The laws of holdings and pins (R70, R75): "every other change to a holding lowers it". A law that a fall keeps is kept by
every event, if a grant, a pin and a new window keep it. -/

namespace Sys2Proof.Machine

open Sys2Proof.Safety

/-- What a law of holdings and pins owes to the changes that are no fall. -/
structure HoldingLaw (law : Window → Prop) : Prop where
  falls : ∀ {w w' : Window}, w.Falls w' → law w → law w'
  raise : ∀ {w : Window} {k : Agent} {kind : AccessKind},
    kind.holdingAfter (w.holding k) = w.holding k ∨ NoConflict w k kind → law w →
      law (w.setHolding k (kind.holdingAfter (w.holding k)))
  pin : ∀ {w : Window} {k : Agent} (n : BitVec 4), w.holding k ≠ .none ∨ w.pinCount k ≠ 0 → law w → law (w.setPins k n)
  opened : ∀ (f : FieldSet) (now : Tick), law (f.opened now)

namespace Directory

/-- A law that no fall breaks. -/
theorem Falls.keeps {law : Window → Prop} (falls : ∀ {w w' : Window}, w.Falls w' → law w → law w') {d d' : Directory}
    (g : d.Falls d') (h : EveryWindow law d) : EveryWindow law d' := by
  intro i w' hw'
  obtain ⟨w, hw, fall⟩ := g i w' hw'
  exact falls fall (h i w hw)

/-! ### The falls of a RELEASE and of a detach -/

theorem Falls.reportRelease {a d : Directory} (h : a.Falls d) (now : Tick) (i : SlotId) (k : Agent) (x : Holding) :
    a.Falls (d.reportRelease now i k x) := by
  unfold Directory.reportRelease
  split
  · exact h
  · dsimp only
    split
    · refine Falls.checkCompletion ?_ now i
      split
      · exact ((h.modContext i _).withdrawRecall i k).creditScore k
      · exact h.modContext i _
    · exact h

/-- A holding above the level, lowered to it by a RELEASE (R65, R111). -/
theorem falls_lowerByRelease {d : Directory} {i : SlotId} {w : Window} {k : Agent} {l : Level} (now : Tick)
    (hw : d.window i = some w) (above : (w.holding k).above l = true) : d.Falls (d.lowerByRelease now i k l.holding) := by
  have lowered : d.Falls (if l.holding = .none then (d.setHolding i k l.holding).setPins i k 0
      else d.setHolding i k l.holding) := by
    have := d.falls_lower i k l.holding (decide (l.holding = .none))
      (fun v hv => by
        obtain rfl : w = v := Option.some.inj (hw.symm.trans hv)
        exact (above_iff.1 above).le)
      (fun _ _ none => .inr (decide_eq_true none))
    simpa using this
  exact (lowered.reportRelease now i k _).settle now d

theorem falls_decideRelease {d : Directory} {i : SlotId} {w : Window} (now : Tick) (k : Agent) (a : Addr) (l : Level)
    (hw : d.window i = some w) : d.Falls (d.decideRelease now k a l i w).1 := by
  unfold Directory.decideRelease
  split
  · next above => exact falls_lowerByRelease now hw above
  · exact .refl d

theorem falls_decideWithdraw (d : Directory) (now : Tick) (k : Agent) (a : Addr) (i : SlotId) (w : Window) :
    d.Falls (d.decideWithdraw now k a i w).1 := by
  unfold Directory.decideWithdraw
  split
  · exact .refl d
  · exact (Falls.refl d).leaveWaiters now k i

theorem falls_acceptDetach (d : Directory) (now : Tick) (e : Entry) (k : Agent) : d.Falls (d.acceptDetach now e k) := by
  have started := (Falls.refl d).startDetach now k e.tag (forceField (e.param 0))
  unfold Directory.acceptDetach
  dsimp only
  split
  · exact started.completeDetach now k
  · exact started.park _

theorem Falls.reportGrant {a d : Directory} (h : a.Falls d) (i : SlotId) (k : Agent) (kind : AccessKind) (x : Addr) :
    a.Falls (d.reportGrant i k kind x) := by
  unfold Directory.reportGrant
  split
  · exact h
  · split
    · exact h
    · split
      · refine Falls.finish ?_ _
        exact h.touch i (fun _ => rfl) fun _ => rfl
      · exact h

theorem Falls.waitAccess {a d : Directory} (h : a.Falls d) (i : SlotId) (w : Window) (k : Agent) (x : Addr) (kind : AccessKind)
    (reason : RetryReason) : a.Falls (d.waitAccess i w k x kind reason).1 := by
  have keeps : ∀ v : Window, (v.enlist k kind).holdings = v.holdings ∧ (v.enlist k kind).pins = v.pins := fun v => by
    unfold Window.enlist
    split <;> exact ⟨rfl, rfl⟩
  unfold Directory.waitAccess
  split
  · exact h
  · exact h.touch i (fun v => (keeps v).1) fun v => (keeps v).2

theorem Falls.recallForAccess {a d : Directory} (h : a.Falls d) (now : Tick) (i : SlotId) (w : Window) (k : Agent) (x : Addr)
    (kind : AccessKind) : a.Falls (d.recallForAccess now i w k x kind).1 := by
  have listed := h.waitAccess i w k x kind .recalling
  unfold Directory.waitAccess at listed
  unfold Directory.recallForAccess
  split
  · exact h
  · next out =>
    rw [if_neg out] at listed
    exact (listed.startRecall now i .waiter false _).checkCompletion now i

end Directory

/-! ### Grants and pins -/

section

variable {law : Window → Prop} {d : Directory} {i : SlotId} {w : Window} {k : Agent} {kind : AccessKind}

/-- One window of a table changed. -/
theorem everyWindow_of_one {d' : Directory} (h : EveryWindow law d) (one : ∀ v, d'.window i = some v → law v)
    (others : ∀ j, j ≠ i → d'.window j = d.window j) : EveryWindow law d' := by
  intro j v hv
  by_cases e : j = i
  · subst e; exact one v hv
  · exact h j v (others j e ▸ hv)

/-- A grant that raises no holding where a conflict stands (R63, R64). -/
theorem HoldingLaw.grantAccess (hl : HoldingLaw law) (h : EveryWindow law d) (now : Tick) (a : Addr) (served : Bool)
    (hw : d.window i = some w) (free : kind.holdingAfter (w.holding k) = w.holding k ∨ NoConflict w k kind) :
    EveryWindow law (d.grantAccess now i w k a kind served).1 := by
  have raised : EveryWindow law (d.setHolding i k (kind.holdingAfter (w.holding k))) := by
    refine everyWindow_of_one h (i := i) (fun v hv => ?_) fun j hj => by simp [hj]
    simp only [window_setHolding, if_true, hw, Option.map_some, Option.some.injEq] at hv
    exact hv ▸ hl.raise free (h i w hw)
  refine Directory.Falls.keeps hl.falls ?_ raised
  have touched := (Directory.Falls.refl (d.setHolding i k (kind.holdingAfter (w.holding k)))).touch i (f := (·.granted now))
    (fun _ => rfl) fun _ => rfl
  unfold Directory.grantAccess
  dsimp only
  refine Directory.Falls.reportGrant ?_ i k kind a
  split
  · refine Directory.Falls.headService ?_ now i
    exact touched.touch i (fun _ => rfl) fun _ => rfl
  · exact touched

theorem HoldingLaw.windowStage (hl : HoldingLaw law) (h : EveryWindow law d) (now : Tick) (a : Addr)
    (hw : d.window i = some w) : EveryWindow law (d.windowStage now i w k a kind).1 := by
  have waits : ∀ reason, EveryWindow law (d.waitAccess i w k a kind reason).1 := fun reason =>
    ((Directory.Falls.refl d).waitAccess i w k a kind reason).keeps hl.falls h
  have recalls : EveryWindow law (d.recallForAccess now i w k a kind).1 :=
    ((Directory.Falls.refl d).recallForAccess now i w k a kind).keeps hl.falls h
  have clear : ¬ w.conflicting k kind = true → NoConflict w k kind := fun g =>
    conflicting_eq_false_iff.1 (by simpa using g)
  unfold Directory.windowStage
  dsimp only
  split
  · next cls => exact hl.grantAccess h now a false hw (.inl (holdingAfter_of_class (.inl cls)))
  · split
    · exact h
    · exact h
    · split
      · exact h
      · split
        · exact waits _
        · next g =>
          simp only [Bool.or_eq_true, not_or] at g
          exact hl.grantAccess h now a false hw (.inr (clear g.2))
    all_goals
      split
      · split
        · exact recalls
        · next g => exact hl.grantAccess h now a false hw (.inr (clear g))
      · split
        · split
          · exact recalls
          · next g => exact hl.grantAccess h now a true hw (.inr (clear g))
        · split
          · exact waits _
          · next g =>
            simp only [Bool.or_eq_true, not_or] at g
            exact hl.grantAccess h now a false hw (.inr (clear g.2))

theorem HoldingLaw.setPins (hl : HoldingLaw law) (h : EveryWindow law d) (now : Tick) (n : BitVec 4)
    (hw : d.window i = some w) (g : w.holding k ≠ .none ∨ w.pinCount k ≠ 0) :
    EveryWindow law ((d.setPins i k n).modWindow i (·.granted now)) := by
  refine Directory.Falls.keeps hl.falls ((Directory.Falls.refl _).touch i (fun _ => rfl) fun _ => rfl) ?_
  refine everyWindow_of_one h (i := i) (fun v hv => ?_) fun j hj => by simp [hj]
  simp only [window_setPins, if_true, hw, Option.map_some, Option.some.injEq] at hv
  exact hv ▸ hl.pin n g (h i w hw)

theorem HoldingLaw.decidePin (hl : HoldingLaw law) (h : EveryWindow law d) (now : Tick) (a : Addr)
    (hw : d.window i = some w) : EveryWindow law (d.decidePin now k a i w).1 := by
  unfold Directory.decidePin
  split
  · exact h
  · split
    · exact h
    · split
      · exact h
      · split
        · exact h
        · next held =>
          split
          · exact h
          · split
            · exact h
            · exact hl.setPins h now _ hw (.inl held)

theorem HoldingLaw.decideUnpin (hl : HoldingLaw law) (h : EveryWindow law d) (now : Tick) (a : Addr)
    (hw : d.window i = some w) : EveryWindow law (d.decideUnpin now k a i w).1 := by
  unfold Directory.decideUnpin
  split
  · exact h
  · next pinned =>
    refine Directory.Falls.keeps hl.falls ?_ (hl.setPins h now (w.pinCount k - 1) hw (.inr pinned))
    dsimp only
    split
    · exact ((Directory.Falls.refl _).enterOutstanding now i k).awaitVerdict i k
    · exact .refl _

theorem HoldingLaw.decideAccess (hl : HoldingLaw law) (h : EveryWindow law d) (now : Tick) (r : Request) (sent : AccessKind) :
    EveryWindow law (d.decideAccess now k r sent).1 := by
  unfold Directory.decideAccess
  split
  · exact h
  · split
    · exact h
    · split
      · exact h
      · next i w hm =>
        unfold Directory.matchedAccess
        dsimp only
        split
        · exact h
        · split
          · exact h
          · split
            · exact h
            · exact hl.windowStage h now r.address (matched_window hm)

theorem HoldingLaw.openWindow (hl : HoldingLaw law) (h : EveryWindow law d) (now : Tick) (e : Entry) :
    EveryWindow law (d.openWindow now e) := by
  unfold Directory.openWindow
  dsimp only
  split
  · exact h
  · split
    · exact h
    · split
      · exact h
      · next i _ _ _ _ =>
        refine everyWindow_of_one h (i := i) (fun v hv => ?_) fun j hj => ?_
        · have hv : ((d.fillSlot i _).window i) = some v := hv
          simp only [window_fillSlot, if_true, Option.some.injEq] at hv
          exact hv ▸ hl.opened _ now
        · show (d.fillSlot i _).window j = d.window j
          simp [hj]

/-- A law that a fall, a grant, a pin and a new window keep is kept by every event. -/
theorem HoldingLaw.kept (hl : HoldingLaw law) : KeptByEvents (EveryWindow law) where
  same h e := fun i w hw => h i w (e i ▸ hw)
  blank e := fun i w hw => by simp [e i] at hw
  access now k r sent h := hl.decideAccess h now r sent
  release now k a l hw h := (Directory.falls_decideRelease now k a l hw).keeps hl.falls h
  pin now k a hw h := hl.decidePin h now a hw
  unpin now k a hw h := hl.decideUnpin h now a hw
  withdraw now k a _ h := (Directory.falls_decideWithdraw _ now k a _ _).keeps hl.falls h
  verdict k h := ((Directory.Falls.refl _).verdictGiven k).keeps hl.falls h
  notice k n h := ((Directory.Falls.refl _).takeNotice k n).keeps hl.falls h
  deadline now i k x h := ((Directory.Falls.refl _).passDeadline now i k x).keeps hl.falls h
  lapse now i r h := ((Directory.Falls.refl _).lapse now i r).keeps hl.falls h
  idle now i w h := ((Directory.Falls.refl _).passIdle now i w).keeps hl.falls h
  clock now h := ((Directory.Falls.refl _).advance now).keeps hl.falls h
  opening now e h := hl.openWindow h now e
  revise now e h := ((Directory.Falls.refl _).revise now e).keeps hl.falls h
  retire now e h := ((Directory.Falls.refl _).retire now e).keeps hl.falls h
  watch e h := ((Directory.Falls.refl _).startWatch e).keeps hl.falls h
  abort now e h := ((Directory.Falls.refl _).abort now e).keeps hl.falls h
  detach now e k h := (Directory.falls_acceptDetach _ now e k).keeps hl.falls h
  loss now k h := ((Directory.Falls.refl _).agentLoss now k).keeps hl.falls h

end

/-! ### The two laws -/

/-- OWNER is the only holding of rank 2. -/
theorem owner_of_rank {x : Holding} (h : Holding.owner.rank ≤ x.rank) : x = .owner := by
  cases x <;> simp_all [Holding.rank]

theorem opened_holding (f : FieldSet) (now : Tick) (k : Agent) : (f.opened now).holding k = .none := look_replicate _ _

theorem opened_pinCount (f : FieldSet) (now : Tick) (k : Agent) : (f.opened now).pinCount k = 0 := look_replicate _ _

/-- A grant of a kind without conflict leaves the requester OWNER only where no other agent holds, and a holder only where no other
agent is OWNER (R70, R73). -/
theorem singleOwner_raise {w : Window} {k : Agent} {kind : AccessKind} (clear : NoConflict w k kind)
    (raised : kind.holdingAfter (w.holding k) ≠ w.holding k) :
    SingleOwner (w.setHolding k (kind.holdingAfter (w.holding k))) := by
  intro a b hab ha
  rw [holding_setHolding] at ha ⊢
  cases kind with
  | fetch | store => exact absurd rfl raised
  | share =>
    split at ha
    · exact absurd ha (by cases e : w.holding k <;> simp_all [AccessKind.holdingAfter])
    · next hak => exact absurd ha (clear a hak)
  | claim =>
    split at ha
    · next hak => rw [if_neg (fun e => hab (hak.trans e.symm))]; exact clear b fun e => hab (hak.trans e.symm)
    · next hak => exact absurd ha (by simp [clear a hak])

theorem holdingLaw_singleOwner : HoldingLaw SingleOwner where
  falls fall h a b hab ha := by
    have owner := owner_of_rank (ha ▸ fall.lower a)
    have none := fall.lower b
    rw [h a b hab owner] at none
    exact rank_eq_zero.1 (Nat.le_zero.1 none)
  raise {w k kind} free h := by
    by_cases same : kind.holdingAfter (w.holding k) = w.holding k
    · intro a b hab ha
      rw [same] at ha ⊢
      have keeps : ∀ j, (w.setHolding k (w.holding k)).holding j = w.holding j := fun j => by
        rw [holding_setHolding]
        split
        · next e => rw [e]
        · rfl
      rw [keeps] at ha ⊢
      exact h a b hab ha
    · exact singleOwner_raise (free.resolve_left same) same
  pin _ _ h := h
  opened f now a b _ ha := by simp [opened_holding] at ha

theorem holdingLaw_pinsHeld : HoldingLaw PinsHeld where
  falls fall h k none := by
    rcases fall.cleared k none with before | cleared
    · rcases fall.pins k with same | zero
      · exact same.trans (h k before)
      · exact zero
    · exact cleared
  raise {w k kind} _ h a none := by
    rw [pinCount_setHolding]
    rw [holding_setHolding] at none
    split at none
    · next e =>
      refine h a (e ▸ ?_)
      cases kind <;> cases x : w.holding k <;> simp_all [AccessKind.holdingAfter]
    · exact h a none
  pin {w k} n g h a none := by
    rw [pinCount_setPins]
    split
    · next e =>
      subst e
      exact absurd none (g.resolve_right fun pinned => pinned (h a none))
    · exact h a none
  opened f now k _ := opened_pinCount f now k

/-- Settles O54: both laws are kept by a fall, a grant, a pin and a new window, and so by every event. -/
theorem stepKeepsOwnersAndPins : Obligations.StepKeepsOwnersAndPins :=
  ⟨fun _ _ h e => holdingLaw_singleOwner.kept.step h e, fun _ _ h e => holdingLaw_pinsHeld.kept.step h e⟩

end Sys2Proof.Machine
end

section
/-! SUPPORT. Waiter lists and reservations (R80, R88): what an update may do to them, and that every operation of recall, departure and
completion keeps their two laws together. -/

namespace Sys2Proof.Machine

open Sys2Proof.Safety

/-! ### Windows -/

/-- No agent waits twice, and a reservation stands in OPEN and for the head. -/
def Window.Orderly (w : Window) : Prop := WaitersOnce w ∧ ReservationForHead w

theorem head_eq (w : Window) : w.head = (w.waiters.map (·.agent)).head? := by simp [Window.head]

/-- An update that keeps the agents of the list and the reservation's, and makes no context. -/
theorem Window.Orderly.of_same {w w' : Window} (h : w.Orderly)
    (waiters : w'.waiters.map (·.agent) = w.waiters.map (·.agent))
    (reservation : w'.reservation.map (·.agent) = w.reservation.map (·.agent))
    (context : w.context = none → w'.context = none) : w'.Orderly := by
  refine ⟨by rw [WaitersOnce, waiters]; exact h.1, fun r hr => ?_⟩
  obtain ⟨x, hx, hxr⟩ : ∃ x, w.reservation = some x ∧ x.agent = r.agent := by
    rw [Option.mem_def.1 hr] at reservation
    exact Option.map_eq_some_iff.1 reservation.symm
  obtain ⟨opened, head⟩ := h.2 x hx
  exact ⟨context opened, by rw [head_eq, waiters, ← head_eq, head, hxr]⟩

/-- A window whose reservation is gone, with no waiter new. -/
theorem Window.Orderly.of_unreserved {w w' : Window} (h : w.Orderly) (waiters : w'.waiters.Sublist w.waiters)
    (reservation : w'.reservation = none) : w'.Orderly :=
  ⟨h.1.sublist (waiters.map _), fun r hr => by simp [reservation] at hr⟩

/-- An agent off the list, with a reservation that it held (R82, R84, R88). -/
theorem Window.Orderly.unlist {w : Window} (h : w.Orderly) (k : Agent) : ((w.unlist k).unreserve k).Orderly := by
  refine ⟨h.1.sublist (List.filter_sublist.map _), fun r hr => ?_⟩
  obtain ⟨hr, hk⟩ := Option.filter_eq_some_iff.1 hr
  obtain ⟨opened, head⟩ := h.2 r hr
  refine ⟨opened, ?_⟩
  obtain ⟨x, hx, hxr⟩ := Option.map_eq_some_iff.1 head
  obtain ⟨rest, hrest⟩ := List.head?_eq_some_iff.1 hx
  have stays : (x.agent != k) = true := by rw [hxr]; exact hk
  have left : ((w.unlist k).unreserve k).waiters = x :: rest.filter (·.agent != k) := by
    show w.waiters.filter (·.agent != k) = _
    exact hrest ▸ List.filter_cons_of_pos (p := fun y : Waiter => y.agent != k) stays
  rw [Window.head, left, ← hxr]
  rfl

/-- An agent joins the list, or its wanted kind is set (R81): no head changes, and where there was none no reservation stood. -/
theorem Window.Orderly.enlist {w : Window} (h : w.Orderly) (k : Agent) (kind : AccessKind) : (w.enlist k kind).Orderly := by
  unfold Window.enlist
  split
  · refine h.of_same ?_ rfl id
    rw [List.map_map]
    refine List.map_congr_left fun x _ => ?_
    by_cases e : x.agent = k <;> simp [e]
  · next new =>
    refine ⟨?_, fun r hr => ?_⟩
    · rw [WaitersOnce, List.map_append]
      refine List.Nodup.append h.1 (List.nodup_singleton _) fun j hj hk => new (listed_iff.2 ?_)
      obtain ⟨x, hx, hxj⟩ := List.mem_map.1 hj
      exact ⟨x, hx, hxj.trans (List.mem_singleton.1 hk)⟩
    · obtain ⟨opened, head⟩ := h.2 r hr
      obtain ⟨x, hx, hxr⟩ := Option.map_eq_some_iff.1 head
      refine ⟨opened, ?_⟩
      simp [Window.head, List.head?_append, hx, hxr]

/-- The entries from the first entitled one on are the list's end. -/
theorem servable_sublist (w : Window) : w.servable.Sublist w.waiters := List.dropWhile_sublist _

theorem orderly_opened (f : FieldSet) (now : Tick) : (f.opened now).Orderly :=
  ⟨List.nodup_nil, fun r hr => by simp [FieldSet.opened, Window.armIdle] at hr⟩

namespace Directory

/-- Every window is orderly. -/
def Orderly (d : Directory) : Prop := EveryWindow Window.Orderly d

variable {d : Directory}

/-! ### Updates -/

theorem Orderly.of_windows {d' : Directory} (h : d.Orderly) (e : ∀ i, d'.window i = d.window i) : d'.Orderly :=
  fun i w hw => h i w (e i ▸ hw)

theorem Orderly.modWindow (h : d.Orderly) (i : SlotId) {f : Window → Window}
    (g : ∀ w, d.window i = some w → w.Orderly → (f w).Orderly) : (d.modWindow i f).Orderly := by
  refine everyWindow_of_one h (i := i) (fun v hv => ?_) fun j hj => by simp [hj]
  simp only [window_modWindow, if_true, Option.map_eq_some_iff] at hv
  obtain ⟨w, hw, rfl⟩ := hv
  exact g w hw (h i w hw)

/-- An update that leaves list, reservation and context alone. -/
theorem Orderly.touch (h : d.Orderly) (i : SlotId) {f : Window → Window} (waiters : ∀ w, (f w).waiters = w.waiters)
    (reservation : ∀ w, (f w).reservation = w.reservation) (context : ∀ w : Window, w.context = none → (f w).context = none) :
    (d.modWindow i f).Orderly :=
  h.modWindow i fun w _ g => g.of_same (by rw [waiters]) (by rw [reservation]) (context w)

theorem context_modContext_none {w : Window} (f : RecallContext → RecallContext) (h : w.context = none) :
    (w.modContext f).context = none := by simp [Window.modContext, h]

theorem Orderly.modContext (h : d.Orderly) (i : SlotId) (f : RecallContext → RecallContext) : (d.modContext i f).Orderly :=
  h.touch i (fun _ => rfl) (fun _ => rfl) fun _ => context_modContext_none f

theorem Orderly.setHolding (h : d.Orderly) (i : SlotId) (k : Agent) (x : Holding) : (d.setHolding i k x).Orderly := by
  unfold Directory.setHolding
  split
  · exact h
  · exact Orderly.of_windows (h.touch i (f := (·.setHolding k x)) (fun _ => rfl) (fun _ => rfl) fun _ => id) fun _ => rfl

theorem Orderly.setPins (h : d.Orderly) (i : SlotId) (k : Agent) (n : BitVec 4) : (d.setPins i k n).Orderly :=
  h.touch i (fun _ => rfl) (fun _ => rfl) fun _ => id

theorem Orderly.modAgent (h : d.Orderly) (k : Agent) (f : AgentRecord → AgentRecord) : (d.modAgent k f).Orderly :=
  h.of_windows fun _ => rfl

theorem Orderly.finish (h : d.Orderly) (r : Record) : (d.finish r).Orderly := h.of_windows fun _ => rfl

theorem Orderly.reply (h : d.Orderly) (e : Entry) (x : Status) (v : Word) : (d.reply e x v).Orderly := h.of_windows fun _ => rfl

theorem Orderly.park (h : d.Orderly) (p : Parked) : (d.park p).Orderly := h.of_windows fun _ => rfl

theorem Orderly.modAlerts (h : d.Orderly) (f : Alerts → Alerts) : (d.modAlerts f).Orderly := h.of_windows fun _ => rfl

theorem Orderly.freeSlot (h : d.Orderly) (i : SlotId) : (d.freeSlot i).Orderly :=
  everyWindow_of_one h (i := i) (fun v hv => by simp at hv) fun j hj => by simp [hj]

/-- An update of every window that leaves list, reservation and context alone. -/
theorem Orderly.of_every {d' : Directory} (h : d.Orderly) {f : Window → Window} (e : ∀ i, d'.window i = (d.window i).map f)
    (keeps : ∀ w : Window, w.Orderly → (f w).Orderly) : d'.Orderly := by
  intro i v hv
  rw [Option.mem_def, e, Option.map_eq_some_iff] at hv
  obtain ⟨w, hw, rfl⟩ := hv
  exact keeps w (h i w hw)

theorem Orderly.foldl {α : Type} (h : d.Orderly) (f : Directory → α → Directory)
    (g : ∀ (d : Directory) (x : α), d.Orderly → (f d x).Orderly) (l : List α) : (l.foldl f d).Orderly := by
  induction l generalizing d with
  | nil => exact h
  | cons x l ih => exact ih (g d x h)

/-! ### Notices -/

theorem Orderly.markNotice (h : d.Orderly) (i : SlotId) (k : Agent) (n : NoticeStatus) : (d.markNotice i k n).Orderly :=
  h.modContext i _

theorem Orderly.fillPlace (h : d.Orderly) (k : Agent) : (d.fillPlace k).Orderly := by
  unfold Directory.fillPlace
  split
  · split
    · exact h.modAgent k _
    · split
      · exact (h.modAgent k _).markNotice _ k _
      · exact h
  · exact h

theorem Orderly.withdrawRecall (h : d.Orderly) (i : SlotId) (k : Agent) : (d.withdrawRecall i k).Orderly := by
  unfold Directory.withdrawRecall
  split
  · exact (h.modAgent k _).fillPlace k
  · exact h

theorem Orderly.withdrawAll (h : d.Orderly) (i : SlotId) : (d.withdrawAll i).Orderly :=
  h.foldl _ (fun _ k g => g.withdrawRecall i k) _

theorem Orderly.takeNotice (h : d.Orderly) (k : Agent) (n : Notice) : (d.takeNotice k n).Orderly := by
  unfold Directory.takeNotice
  refine Orderly.fillPlace ?_ k
  split
  · exact (h.modAgent k _).markNotice _ k _
  · exact h.modAgent k _

theorem Orderly.placeRecall (h : d.Orderly) (i : SlotId) (k : Agent) : (d.placeRecall i k).Orderly := by
  unfold Directory.placeRecall
  split
  · exact h
  · exact (h.modAgent k _).markNotice i k _

theorem Orderly.placeRecallAgain (h : d.Orderly) (i : SlotId) (k : Agent) : (d.placeRecallAgain i k).Orderly := by
  unfold Directory.placeRecallAgain
  split
  · exact h
  · exact h.placeRecall i k

/-! ### Recall -/

theorem Orderly.enterOutstanding (h : d.Orderly) (now : Tick) (i : SlotId) (k : Agent) :
    (d.enterOutstanding now i k).Orderly := (h.modContext i _).placeRecall i k

theorem Orderly.revoke (h : d.Orderly) (i : SlotId) (k : Agent) (force : Bool) : (d.revoke i k force).Orderly := by
  unfold Directory.revoke
  split
  · refine .modAgent (.modContext ?_ i _) k _
    split
    · exact (h.setHolding i k _).setPins i k 0
    · exact h.setHolding i k _
  all_goals exact h

theorem Orderly.mergeTarget (h : d.Orderly) (now : Tick) (b : Bool) (i : SlotId) (k : Agent) (l : Level) :
    (d.mergeTarget now b i k l).Orderly := by
  unfold Directory.mergeTarget
  split
  · exact h
  · split
    · exact h
    · next c _ =>
      have named := h.modContext i (·.setTarget k (some (strengthen (look c.targets k) l)))
      dsimp only
      split
      · split
        · split
          · exact named.enterOutstanding now i k
          · split
            · exact named.revoke i k true
            · exact named.modContext i _
        · exact named
      · split
        · exact named
        · exact named.placeRecallAgain i k
      · split
        · exact named.revoke i k true
        · exact named

theorem Orderly.mergeTargets (h : d.Orderly) (now : Tick) (i : SlotId) (ts : List (Agent × Level)) :
    (d.mergeTargets now i ts).Orderly := h.foldl _ (fun _ t g => g.mergeTarget now false i t.1 t.2) ts

theorem Orderly.revokeBlocked (h : d.Orderly) (i : SlotId) : (d.revokeBlocked i).Orderly := by
  refine h.foldl _ (fun e k g => ?_) _
  split
  · exact g.revoke i k true
  · exact g

/-- A context begins, and the reservation with it ends (R98). -/
theorem Orderly.createContext (h : d.Orderly) (i : SlotId) (c : Cause) (b : Bool) : (d.createContext i c b).Orderly :=
  h.modWindow i fun _ _ g => g.of_unreserved (List.Sublist.refl _) rfl

theorem Orderly.addCause (h : d.Orderly) (i : SlotId) (c : Cause) : (d.addCause i c).Orderly := h.modContext i _

theorem Orderly.setForce (h : d.Orderly) (i : SlotId) (b : Bool) : (d.setForce i b).Orderly := h.modContext i _

theorem Orderly.startRecall (h : d.Orderly) (now : Tick) (i : SlotId) (c : Cause) (b : Bool) (ts : List (Agent × Level)) :
    (d.startRecall now i c b ts).Orderly := (h.createContext i c b).mergeTargets now i ts

/-- Head service makes a reservation in OPEN alone, and for the head it leaves (R87, R88). -/
theorem Orderly.headService (h : d.Orderly) (now : Tick) (i : SlotId) : (d.headService now i).Orderly := by
  cases hw : d.window i with
  | none => rw [Directory.headService, hw]; exact h
  | some w =>
    have hwo : w.Orderly := h i w hw
    have write : ∀ v : Window, v.Orderly → (withWindow d i v).Orderly := fun v hv =>
      everyWindow_of_one h (i := i) (fun x hx => by simp at hx; exact hx ▸ hv) fun j hj => by simp [hj]
    by_cases run : w.context = none ∧ w.reservation = none
    · obtain ⟨hc, hr⟩ := run
      have sub := servable_sublist w
      cases hs : w.servable with
      | nil =>
        rw [headService_none hw hc hr hs]
        exact write _ (hwo.of_unreserved (List.nil_sublist _) hr)
      | cons x rest =>
        rw [hs] at sub
        have served : ∀ r, Window.Orderly { w with waiters := x :: rest, reservation := r } ↔
            ∀ y ∈ r, x.agent = y.agent := fun r => by
          refine ⟨fun g y hy => ?_, fun g => ⟨hwo.1.sublist (sub.map _), fun y hy => ⟨hc, congrArg some (g y hy)⟩⟩⟩
          simpa [Window.head] using (g.2 y hy).2
        rw [headService_some hw hc hr hs]
        split
        · exact write _ ((served _).2 fun y hy => by rw [Option.mem_def, Option.some.injEq] at hy; rw [← hy])
        · refine Orderly.startRecall (write _ ?_) now i .waiter false _
          exact hwo.of_unreserved sub hr
    · rw [headService_idle hw (by by_contra g; push Not at g; exact run g)]
      exact h

/-- A context ends; a reservation never stood beside it. -/
theorem Orderly.removeContext (h : d.Orderly) (i : SlotId) : (d.modWindow i fun w => { w with context := none }).Orderly :=
  h.touch i (fun _ => rfl) (fun _ => rfl) fun _ _ => rfl

theorem Orderly.armIdle (h : d.Orderly) (now : Tick) (i : SlotId) : (d.modWindow i (·.armIdle now)).Orderly :=
  h.touch i (fun _ => rfl) (fun _ => rfl) fun _ => id

theorem Orderly.closeContext (h : d.Orderly) (now : Tick) (i : SlotId) : (d.closeContext now i).Orderly :=
  (((h.removeContext i).withdrawAll i).armIdle now i).headService now i

theorem Orderly.applyRevision (h : d.Orderly) (i : SlotId) : (d.applyRevision i).Orderly := by
  unfold Directory.applyRevision
  split
  · exact h
  · refine Orderly.finish ?_ _
    exact h.touch i (fun _ => rfl) (fun _ => rfl) fun _ => context_modContext_none _

theorem Orderly.dropWatch (h : d.Orderly) (i : SlotId) : (d.modWindow i fun w => { w with watch := none }).Orderly :=
  h.touch i (fun _ => rfl) (fun _ => rfl) fun _ => id

theorem Orderly.endWatch (h : d.Orderly) (i : SlotId) : (d.endWatch i).Orderly := by
  unfold Directory.endWatch
  split
  · exact h
  · exact (h.dropWatch i).finish _

theorem Orderly.completeRetirement (h : d.Orderly) (i : SlotId) : (d.completeRetirement i).Orderly := by
  have gone := (((h.removeContext i).withdrawAll i).endWatch i).freeSlot i
  unfold Directory.completeRetirement
  dsimp only
  split
  · exact gone
  · exact gone.finish _

theorem Orderly.complete (h : d.Orderly) (now : Tick) (i : SlotId) (c : RecallContext) : (d.complete now i c).Orderly := by
  unfold Directory.complete
  split
  · exact h.completeRetirement i
  · split
    · exact (h.applyRevision i).closeContext now i
    · exact h.closeContext now i

theorem Orderly.checkCompletion (h : d.Orderly) (now : Tick) (i : SlotId) : (d.checkCompletion now i).Orderly := by
  unfold Directory.checkCompletion
  split
  · exact h
  · split
    · exact h
    · exact h.complete now i _

theorem Orderly.afterCauseLeft (h : d.Orderly) (now : Tick) (i : SlotId) : (d.afterCauseLeft now i).Orderly := by
  unfold Directory.afterCauseLeft
  split
  · exact h
  · split
    · exact h.closeContext now i
    · exact h

/-! ### Departure -/

theorem Orderly.unlist (h : d.Orderly) (i : SlotId) (k : Agent) : (d.unlist i k).Orderly := h.modWindow i fun _ _ g => g.unlist k

/-- An agent off the list of a window whose reservation ends. -/
theorem Orderly.unserve (h : d.Orderly) (i : SlotId) (k : Agent) :
    (d.modWindow i fun w => { w.unlist k with reservation := none }).Orderly :=
  h.modWindow i fun _ _ g => g.of_unreserved List.filter_sublist rfl

theorem Orderly.leaveWaiters (h : d.Orderly) (now : Tick) (k : Agent) (i : SlotId) : (d.leaveWaiters now k i).Orderly := by
  unfold Directory.leaveWaiters
  split
  · exact h
  · dsimp only
    split
    · split
      · exact (h.unlist i k).headService now i
      · exact h.unlist i k
    · exact h

theorem Orderly.removeFromContext (h : d.Orderly) (now : Tick) (k : Agent) (i : SlotId) :
    (d.removeFromContext now k i).Orderly := by
  unfold Directory.removeFromContext
  split
  · exact h
  · next c _ =>
    have struck := h.modContext i fun c => ((c.setMember k .neither).setTarget k none).setDetachAgent k false
    have checked : Orderly (if (look c.members k).isMember then
        (d.modContext i fun c => ((c.setMember k .neither).setTarget k none).setDetachAgent k false).checkCompletion now i
        else d.modContext i fun c => ((c.setMember k .neither).setTarget k none).setDetachAgent k false) := by
      split
      · exact struck.checkCompletion now i
      · exact struck
    dsimp only
    split
    · exact checked.afterCauseLeft now i
    · exact checked

theorem Orderly.loseWindow (h : d.Orderly) (now : Tick) (k : Agent) (i : SlotId) : (d.loseWindow now k i).Orderly := by
  have lost := (((h.setHolding i k .none).setPins i k 0).unlist i k).removeFromContext now k i
  unfold Directory.loseWindow
  split
  · exact h
  · dsimp only
    split
    · exact lost.headService now i
    · exact lost

theorem Orderly.endDetach (h : d.Orderly) (k : Agent) (x : Status) : (d.endDetach k x).Orderly := by
  unfold Directory.endDetach
  split
  · exact h
  · exact (h.modAgent k _).finish _

theorem Orderly.agentLoss (h : d.Orderly) (now : Tick) (k : Agent) : (d.agentLoss now k).Orderly :=
  (Orderly.foldl (h.modAgent k _) _ (fun _ i g => g.loseWindow now k i) _).endDetach k _

theorem Orderly.fence (h : d.Orderly) (now : Tick) (k : Agent) : (d.fence now k).Orderly := (h.modAgent k _).agentLoss now k

theorem Orderly.fenceCheck (h : d.Orderly) (now : Tick) (k : Agent) : (d.fenceCheck now k).Orderly := by
  unfold Directory.fenceCheck
  split
  · exact (h.fence now k).modAlerts _
  · exact h

theorem Orderly.leaveDetach (h : d.Orderly) (now : Tick) (k : Agent) (b : Bool) (i : SlotId) :
    (d.leaveDetach now k b i).Orderly := (h.modContext i _).afterCauseLeft now i

theorem Orderly.completeDetach (h : d.Orderly) (now : Tick) (k : Agent) : (d.completeDetach now k).Orderly := by
  refine Orderly.endDetach (Orderly.modAgent ?_ k _) k _
  refine Orderly.foldl ?_ _ (fun _ i g => g.leaveDetach now k true i) _
  exact h.of_windows fun _ => rfl

theorem Orderly.settle (h : d.Orderly) (now : Tick) (before : Directory) : (d.settle now before).Orderly := by
  refine Orderly.foldl ?_ _ (fun _ k g => g.completeDetach now k) _
  exact h.of_windows fun _ => rfl

theorem Orderly.handOverDetach (h : d.Orderly) (now : Tick) (k : Agent) (b : Bool) (i : SlotId) :
    (d.handOverDetach now k b i).Orderly := by
  unfold Directory.handOverDetach
  split
  · exact h
  · split
    · refine Orderly.checkCompletion (Orderly.mergeTarget ?_ now b i k .none) now i
      split
      · exact h.addCause i _
      · exact h.createContext i _ _
    · exact h

theorem Orderly.startDetach (h : d.Orderly) (now : Tick) (k : Agent) (t : Tag) (b : Bool) :
    (d.startDetach now k t b).Orderly :=
  Orderly.foldl (Orderly.foldl (h.modAgent k _) _ (fun _ i g => g.leaveWaiters now k i) _) _
    (fun _ i g => g.handOverDetach now k b i) _

theorem Orderly.acceptDetach (h : d.Orderly) (now : Tick) (e : Entry) (k : Agent) : (d.acceptDetach now e k).Orderly := by
  have started := h.startDetach now k e.tag (forceField (e.param 0))
  unfold Directory.acceptDetach
  dsimp only
  split
  · exact started.completeDetach now k
  · exact started.park _

theorem Orderly.abortDetach (h : d.Orderly) (now : Tick) (k : Agent) : (d.abortDetach now k).Orderly :=
  (Orderly.foldl (h.modAgent k _) _ (fun _ i g => g.leaveDetach now k false i) _).endDetach k _

end Directory

end Sys2Proof.Machine
end

section
/-! SUPPORT. Waiter lists and reservations (R80, R88): every event keeps their two laws. -/

namespace Sys2Proof.Machine

open Sys2Proof.Safety

namespace Directory

variable {d : Directory}

/-! ### Passings -/

theorem Orderly.retry (h : d.Orderly) (now : Tick) (i : SlotId) (k : Agent) (x : Wait) : (d.retry now i k x).Orderly := by
  have counted : ∀ y : Wait, Orderly ((d.modContext i (·.setMember k (.outstanding y))).addScore k 1) := fun y =>
    (h.modContext i _).modAgent k _
  unfold Directory.retry
  dsimp only
  split
  · exact (counted _).fenceCheck now k
  · split
    · exact ((counted _).modContext i _).placeRecallAgain i k
    · exact (counted _).modContext i _

theorem Orderly.revokeOnTimeout (h : d.Orderly) (now : Tick) (i : SlotId) (k : Agent) : (d.revokeOnTimeout now i k).Orderly :=
  ((((h.revoke i k false).modAgent k _).modAlerts _).fenceCheck now k).checkCompletion now i

theorem Orderly.passDeadline (h : d.Orderly) (now : Tick) (i : SlotId) (k : Agent) (x : Wait) :
    (d.passDeadline now i k x).Orderly := by
  refine Orderly.settle ?_ now d
  split
  · exact h.retry now i k x
  · exact h.revokeOnTimeout now i k

theorem Orderly.lapse (h : d.Orderly) (now : Tick) (i : SlotId) (r : Reservation) : (d.lapse now i r).Orderly :=
  (h.unserve i r.agent).headService now i

theorem Orderly.passIdle (h : d.Orderly) (now : Tick) (i : SlotId) (w : Window) : (d.passIdle now i w).Orderly := by
  unfold Directory.passIdle
  split
  · refine Orderly.checkCompletion (Orderly.startRecall ?_ now i .idle false _) now i
    exact h.touch i (fun _ => rfl) (fun _ => rfl) fun _ => id
  · exact h.armIdle now i

theorem Orderly.advance (h : d.Orderly) (now : Tick) : (d.advance now).Orderly :=
  h.of_every (f := (·.advance now)) (fun i => window_advance d now i) fun w g =>
    g.of_same rfl (by simp [Window.advance, Function.comp_def]) fun e => by simp [Window.advance, e]

theorem Orderly.verdictGiven (h : d.Orderly) (k : Agent) : (d.verdictGiven k).Orderly :=
  h.of_every (f := (·.modContext (·.markVerdict k false))) (fun i => window_verdictGiven d k i) fun _ g =>
    g.of_same rfl rfl (context_modContext_none _)

/-! ### Requests -/

theorem Orderly.reportGrant (h : d.Orderly) (i : SlotId) (k : Agent) (kind : AccessKind) (a : Addr) :
    (d.reportGrant i k kind a).Orderly := by
  unfold Directory.reportGrant
  split
  · exact h
  · split
    · exact h
    · split
      · exact (h.dropWatch i).finish _
      · exact h

theorem Orderly.granted (h : d.Orderly) (now : Tick) (i : SlotId) : (d.modWindow i (·.granted now)).Orderly :=
  h.touch i (fun _ => rfl) (fun _ => rfl) fun _ => id

theorem Orderly.grantAccess (h : d.Orderly) (now : Tick) (i : SlotId) (w : Window) (k : Agent) (a : Addr) (kind : AccessKind)
    (served : Bool) : (d.grantAccess now i w k a kind served).1.Orderly := by
  have granted := (h.setHolding i k (kind.holdingAfter (w.holding k))).granted now i
  refine Orderly.reportGrant ?_ i k kind a
  split
  · exact (granted.unserve i k).headService now i
  · exact granted

theorem Orderly.enlist (h : d.Orderly) (i : SlotId) (k : Agent) (kind : AccessKind) :
    (d.modWindow i (·.enlist k kind)).Orderly := h.modWindow i fun _ _ g => g.enlist k kind

theorem Orderly.waitAccess (h : d.Orderly) (i : SlotId) (w : Window) (k : Agent) (a : Addr) (kind : AccessKind)
    (reason : RetryReason) : (d.waitAccess i w k a kind reason).1.Orderly := by
  unfold Directory.waitAccess
  split
  · exact h
  · exact h.enlist i k kind

theorem Orderly.recallForAccess (h : d.Orderly) (now : Tick) (i : SlotId) (w : Window) (k : Agent) (a : Addr)
    (kind : AccessKind) : (d.recallForAccess now i w k a kind).1.Orderly := by
  unfold Directory.recallForAccess
  split
  · exact h
  · exact ((h.enlist i k kind).startRecall now i .waiter false _).checkCompletion now i

theorem Orderly.windowStage (h : d.Orderly) (now : Tick) (i : SlotId) (w : Window) (k : Agent) (a : Addr)
    (kind : AccessKind) : (d.windowStage now i w k a kind).1.Orderly := by
  have grants := h.grantAccess now i w k a kind
  have waits := h.waitAccess i w k a kind
  have recalls := h.recallForAccess now i w k a kind
  unfold Directory.windowStage
  dsimp only
  split
  · exact grants false
  · split
    · exact h
    · exact h
    · split
      · exact h
      · split
        · exact waits .queued
        · exact grants false
    all_goals
      split
      · split
        · exact recalls
        · exact grants false
      · split
        · split
          · exact recalls
          · exact grants true
        · split
          · exact waits .reserved
          · exact grants false

theorem Orderly.decideAccess (h : d.Orderly) (now : Tick) (k : Agent) (r : Request) (sent : AccessKind) :
    (d.decideAccess now k r sent).1.Orderly := by
  unfold Directory.decideAccess
  split
  · exact h
  · split
    · exact h
    · split
      · exact h
      · unfold Directory.matchedAccess
        dsimp only
        split
        · exact h
        · split
          · exact h
          · split
            · exact h
            · exact h.windowStage now _ _ k r.address _

theorem Orderly.reportRelease (h : d.Orderly) (now : Tick) (i : SlotId) (k : Agent) (x : Holding) :
    (d.reportRelease now i k x).Orderly := by
  unfold Directory.reportRelease
  split
  · exact h
  · dsimp only
    split
    · refine Orderly.checkCompletion ?_ now i
      split
      · exact ((h.modContext i _).withdrawRecall i k).modAgent k _
      · exact h.modContext i _
    · exact h

theorem Orderly.decideRelease (h : d.Orderly) (now : Tick) (k : Agent) (a : Addr) (l : Level) (i : SlotId) (w : Window) :
    (d.decideRelease now k a l i w).1.Orderly := by
  unfold Directory.decideRelease
  split
  · refine Orderly.settle (Orderly.reportRelease ?_ now i k _) now d
    split
    · exact (h.setHolding i k _).setPins i k 0
    · exact h.setHolding i k _
  · exact h

theorem Orderly.decidePin (h : d.Orderly) (now : Tick) (k : Agent) (a : Addr) (i : SlotId) (w : Window) :
    (d.decidePin now k a i w).1.Orderly := by
  have pinned := (h.setPins i k (w.pinCount k + 1)).granted now i
  unfold Directory.decidePin
  repeat' split
  all_goals first | exact h | exact pinned

theorem Orderly.decideUnpin (h : d.Orderly) (now : Tick) (k : Agent) (a : Addr) (i : SlotId) (w : Window) :
    (d.decideUnpin now k a i w).1.Orderly := by
  have unpinned := (h.setPins i k (w.pinCount k - 1)).granted now i
  unfold Directory.decideUnpin
  split
  · exact h
  · dsimp only
    split
    · exact (unpinned.enterOutstanding now i k).modContext i _
    · exact unpinned

theorem Orderly.decideWithdraw (h : d.Orderly) (now : Tick) (k : Agent) (a : Addr) (i : SlotId) (w : Window) :
    (d.decideWithdraw now k a i w).1.Orderly := by
  unfold Directory.decideWithdraw
  split
  · exact h
  · exact h.leaveWaiters now k i

/-! ### Commands -/

theorem Orderly.openWindow (h : d.Orderly) (now : Tick) (e : Entry) : (d.openWindow now e).Orderly := by
  unfold Directory.openWindow
  dsimp only
  split
  · exact h.reply e _ _
  · split
    · exact h.reply e _ _
    · split
      · exact h.reply e _ _
      · next i _ _ _ _ =>
        refine Orderly.reply (everyWindow_of_one h (i := i) (fun v hv => ?_) fun j hj => by simp [hj]) e _ _
        simp only [window_fillSlot, if_true, Option.some.injEq] at hv
        exact hv ▸ orderly_opened _ now

theorem Orderly.turnForceOn (h : d.Orderly) (i : SlotId) : (d.turnForceOn i).Orderly := (h.setForce i true).revokeBlocked i

theorem Orderly.joinRevision (h : d.Orderly) (now : Tick) (i : SlotId) (b : Bool) (ts : List (Agent × Level)) :
    (d.joinRevision now i b ts).Orderly := by
  unfold Directory.joinRevision
  cases b with
  | false => exact (h.addCause i _).mergeTargets now i ts
  | true => exact (((h.addCause i _).turnForceOn i).mergeTargets now i ts).turnForceOn i

theorem Orderly.handOverRevision (h : d.Orderly) (now : Tick) (i : SlotId) (b : Bool) (ts : List (Agent × Level)) :
    (d.handOverRevision now i b ts).Orderly := by
  refine Orderly.checkCompletion ?_ now i
  split
  · exact h.joinRevision now i b ts
  · exact h.startRecall now i _ b ts

theorem Orderly.stage (h : d.Orderly) (i : SlotId) (p : PendingRevision) : (d.stage i p).Orderly :=
  h.touch i (fun _ => rfl) (fun _ => rfl) fun _ => id

theorem Orderly.reviseLater (h : d.Orderly) (now : Tick) (i : SlotId) (w : Window) (e : Entry) (f : FieldSet) (b : Bool) :
    (d.reviseLater now i w e f b).Orderly := by
  have handed := (h.stage i { fields := f, force := b, tag := e.tag }).handOverRevision now i b (w.affected f)
  refine Orderly.settle ?_ now d
  split
  · exact handed.park _
  · exact handed

theorem Orderly.applyNow (h : d.Orderly) (now : Tick) (i : SlotId) (f : FieldSet) : (d.applyNow now i f).Orderly := by
  refine Orderly.headService ?_ now i
  exact h.modWindow i fun _ _ g => g.of_unreserved (List.Sublist.refl _) rfl

theorem Orderly.acceptRevise (h : d.Orderly) (now : Tick) (i : SlotId) (w : Window) (e : Entry) (f : FieldSet) (b : Bool) :
    (d.acceptRevise now i w e f b).Orderly := by
  unfold Directory.acceptRevise
  split
  · exact (h.applyNow now i f).reply e _ _
  · exact h.reviseLater now i w e f b

theorem Orderly.revise (h : d.Orderly) (now : Tick) (e : Entry) : (d.revise now e).Orderly := by
  have refused := h.reply e
  unfold Directory.revise
  dsimp only
  split
  · exact refused _ _
  · split
    · exact refused _ _
    · split
      · exact refused _ _
      · split
        · exact refused _ _
        · split
          · exact refused _ _
          · split
            · exact refused _ _
            · exact h.acceptRevise now _ _ e _ _

theorem Orderly.supersede (h : d.Orderly) (i : SlotId) (b : Bool) : (d.supersede i b).Orderly := by
  unfold Directory.supersede
  split
  · exact h
  · refine Orderly.finish ?_ _
    exact h.touch i (fun _ => rfl) (fun _ => rfl) fun _ => context_modContext_none _

theorem Orderly.emptyForRetire (h : d.Orderly) (i : SlotId) (t : Tag) : (d.emptyForRetire i t).Orderly :=
  h.modWindow i fun _ _ g => g.of_unreserved (List.nil_sublist _) rfl

theorem Orderly.handOverRetire (h : d.Orderly) (now : Tick) (i : SlotId) (b : Bool) : (d.handOverRetire now i b).Orderly := by
  unfold Directory.handOverRetire
  split
  · exact h
  · next w _ =>
    refine Orderly.checkCompletion ?_ now i
    have joined := (h.addCause i .retire).mergeTargets now i w.allHolders
    split
    · dsimp only
      split
      · exact joined.turnForceOn i
      · exact joined.setForce i false
    · exact h.startRecall now i _ b _

theorem Orderly.retire (h : d.Orderly) (now : Tick) (e : Entry) : (d.retire now e).Orderly := by
  unfold Directory.retire
  dsimp only
  split
  · exact h.reply e _ _
  · split
    · exact h.reply e _ _
    · next i _ _ =>
      have handed := ((h.supersede i (forceField (e.param 0))).emptyForRetire i e.tag).handOverRetire now i
        (forceField (e.param 0))
      refine Orderly.settle ?_ now d
      split
      · exact handed.park _
      · exact handed

theorem Orderly.startWatch (h : d.Orderly) (e : Entry) : (d.startWatch e).Orderly := by
  have refused := h.reply e
  unfold Directory.startWatch
  dsimp only
  split
  · exact refused _ _
  · split
    · exact refused _ _
    · split
      · exact refused _ _
      · split
        · exact refused _ _
        · split
          · exact refused _ _
          · refine Orderly.park ?_ _
            exact h.touch _ (fun _ => rfl) (fun _ => rfl) fun _ => id

theorem Orderly.abortRevision (h : d.Orderly) (now : Tick) (i : SlotId) (t : Tag) : (d.abortRevision now i t).Orderly := by
  refine Orderly.finish (Orderly.afterCauseLeft ?_ now i) _
  exact h.touch i (fun _ => rfl) (fun _ => rfl) fun _ => context_modContext_none _

theorem Orderly.abort (h : d.Orderly) (now : Tick) (e : Entry) : (d.abort now e).Orderly := by
  unfold Directory.abort
  dsimp only
  split
  · exact h.reply e _ _
  · next p _ =>
    cases q : p.work <;> simp only [abortWork, q]
    · exact (h.abortRevision now _ _).reply e _ _
    · exact h.reply e _ _
    · exact ((h.dropWatch _).finish _).reply e _ _
    · exact (h.abortDetach now _).reply e _ _

end Directory

/-- Every event keeps the windows orderly. -/
theorem orderly_kept : KeptByEvents Directory.Orderly where
  same h e := h.of_windows e
  blank e := fun i w hw => by simp [e i] at hw
  access now k r sent h := h.decideAccess now k r sent
  release now k a l _ h := h.decideRelease now k a l _ _
  pin now k a _ h := h.decidePin now k a _ _
  unpin now k a _ h := h.decideUnpin now k a _ _
  withdraw now k a _ h := h.decideWithdraw now k a _ _
  verdict k h := h.verdictGiven k
  notice k n h := h.takeNotice k n
  deadline now i k x h := h.passDeadline now i k x
  lapse now i r h := h.lapse now i r
  idle now i w h := h.passIdle now i w
  clock now h := h.advance now
  opening now e h := h.openWindow now e
  revise now e h := h.revise now e
  retire now e h := h.retire now e
  watch e h := h.startWatch e
  abort now e h := h.abort now e
  detach now e k h := h.acceptDetach now e k
  loss now k h := h.agentLoss now k

/-- Settles O57: the two laws hold together through every operation, head service alone making a reservation. -/
theorem stepKeepsWaitersAndReservation : Obligations.StepKeepsWaitersAndReservation :=
  fun _ _ h e => orderly_kept.step (P := Directory.Orderly) h e

end Sys2Proof.Machine
end

section
/-! SUPPORT. Head service and what makes it run: reservations that lapse and entries that leave (R83, R84, R86, R87, R91). -/

namespace Sys2Proof.Machine

open Sys2Proof.Safety

/-- Settles O27: head service by the first entry of the list that is entitled, if there is one. -/
theorem headServiceServesFirstEntitled : Obligations.HeadServiceServesFirstEntitled := by
  intro d now i w hw
  refine ⟨headService_idle hw, fun hc hr => ⟨fun none => headService_none hw hc hr (servable_nil none), ?_⟩⟩
  intro lost x rest list unentitled entitled
  have served := headService_some (now := now) hw hc hr (servable_cons list unentitled entitled)
  refine ⟨fun clear => ?_, fun conflict => ?_⟩
  · rw [served, if_pos (conflicts_eq_nil_iff.2 clear)]
    rfl
  · rw [served, if_neg fun nil => conflict (conflicts_eq_nil_iff.1 nil)]
    obtain ⟨started, parked, _⟩ := startRecall_waiter (d := withWindow d i { w with waiters := x :: rest }) (now := now)
      (w := { w with waiters := x :: rest }) (k := x.agent) (kind := x.wanted.decided w.fields.cacheable) (i := i) (by simp)
    exact ⟨recallStarted_of_withWindow started, parked⟩

/-- Head service where no waiter is left: a running recall keeps it from running, and otherwise it finds no head. -/
theorem headService_noWaiters {d : Directory} {i : SlotId} {w : Window} (now : Tick) (hw : d.window i = some w)
    (hl : w.waiters = []) : d.headService now i = d := by
  by_cases hc : w.context = none
  · exact headService_empty hw hc hl
  · exact headService_idle hw (.inl hc)

/-- Settles O38: the window without its reservation and the reservation's agent, and head service on it. -/
theorem reservationLapses : Obligations.ReservationLapses := by
  intro i s w x hw hr due
  have taken : s.directory.dueReservation i = some x := by
    simp [Directory.dueReservation, hw, hr, due]
  have lapsed : s.directory.lapse s.clock i x = (withWindow s.directory i
      { w with reservation := none, waiters := w.waiters.filter (·.agent != x.agent) }).headService s.clock i :=
    congrArg (·.headService s.clock i) (modWindow_eq_withWindow _ hw)
  refine ⟨?_, fun own => ?_⟩
  · show Host.Outcome.next _ = _
    rw [taken, ← lapsed]
  · have left : w.waiters.filter (·.agent != x.agent) = [] :=
      List.filter_eq_nil_iff.2 fun y hy => by simp [own y hy]
    exact headService_noWaiters s.clock ((window_withWindow _ i i _).trans (if_pos rfl)) left

/-! ### Requests decided for their matched window -/

/-- A request of a kind without form, decided for the window it matches. -/
theorem exec_found {s : State} {k : Agent} {r : Request} {kind : RequestKind} {i : SlotId} {w : Window} {d : Directory}
    {v : Verdict} (h : Found s k r kind i w) (g : kind = .pin ∨ kind = .unpin ∨ kind = .withdraw)
    (e : otherDecision s.directory s.clock k r kind i w = (d, v)) : exec (taking kind) s = .next (answered s k v d) := by
  rw [exec_other h.next g, decideOther_of_matched h.service h.found, e]

/-! ### WITHDRAW (R83, R84) -/

section

variable {d : Directory} {i : SlotId} {w : Window} {k : Agent}

theorem leaveWaiters_unlisted (now : Tick) (hw : d.window i = some w) (h : ∀ x ∈ w.waiters, x.agent ≠ k) :
    d.leaveWaiters now k i = d := by
  have : w.listed k = false := by simpa [Window.listed] using h
  simp [Directory.leaveWaiters, hw, this]

theorem leaveWaiters_listed (now : Tick) (hw : d.window i = some w) (h : ∃ x ∈ w.waiters, x.agent = k) :
    d.leaveWaiters now k i =
      if w.context = none ∧ w.head = some k then
        (withWindow d i ((w.unlist k).unreserve k)).headService now i
      else withWindow d i ((w.unlist k).unreserve k) := by
  have left : d.unlist i k = withWindow d i ((w.unlist k).unreserve k) := modWindow_eq_withWindow _ hw
  simp [Directory.leaveWaiters, hw, listed_iff.2 h, left, Window.openHead]

/-- An agent that is not the head of an OPEN window has no reservation there to end (R88). -/
theorem unlist_unreserved (orderly : ReservationForHead w) (g : w.head ≠ some k ∨ w.context ≠ none) :
    (w.unlist k).unreserve k = { w with waiters := w.waiters.filter (·.agent != k) } := by
  have keeps : w.reservation.filter (·.agent != k) = w.reservation := by
    cases hr : w.reservation with
    | none => rfl
    | some r =>
      obtain ⟨opened, head⟩ := orderly r hr
      have other : r.agent ≠ k := fun e => g.elim (fun g => g (e ▸ head)) fun g => g opened
      simp [other]
  show ({ w with waiters := _, reservation := w.reservation.filter (·.agent != k) } : Window) = _
  rw [keeps]
  rfl

/-- The head leaves with its reservation, and is on the list no more. -/
theorem unlist_head {x : Waiter} {rest : List Waiter} (once : WaitersOnce w) (orderly : ReservationForHead w)
    (list : w.waiters = x :: rest) (own : x.agent = k) :
    (w.unlist k).unreserve k = { w with waiters := rest, reservation := none } := by
  have others : ∀ y ∈ rest, (y.agent != k) = true := by
    rw [WaitersOnce, list, List.map_cons, List.nodup_cons] at once
    intro y hy
    exact bne_iff_ne.2 fun e => once.1 (List.mem_map.2 ⟨y, hy, e.trans own.symm⟩)
  have left : w.waiters.filter (·.agent != k) = rest := by
    rw [list, List.filter_cons_of_neg (by simp [own]), List.filter_eq_self.2 others]
  have ended : w.reservation.filter (·.agent != k) = none := by
    cases hr : w.reservation with
    | none => rfl
    | some r =>
      obtain ⟨_, head⟩ := orderly r hr
      have : r.agent = k := by
        rw [Window.head, list] at head
        exact (Option.some.inj head).symm.trans own
      simp [this]
  show ({ w with waiters := w.waiters.filter (·.agent != k), reservation := w.reservation.filter (·.agent != k) } : Window) = _
  rw [left, ended]

end

/-- Settles O34: off the list, on it, and at its head in OPEN. -/
theorem withdrawLeavesList : Obligations.WithdrawLeavesList := by
  intro s k r i w h calm once orderly
  have hw : s.directory.window i = some w := h.found.1
  have granted : ∀ {d : Directory}, s.directory.leaveWaiters s.clock k i = d →
      exec .withdraw s = .next (answered s k (granted w (slotHandle s.directory i) (w.holding k) r.address) d) := fun {d} e =>
    exec_found h (.inr (.inr rfl)) (by simp [otherDecision, Directory.decideWithdraw, calm, answer_grant, e])
  refine ⟨fun off => granted (leaveWaiters_unlisted s.clock hw off), fun rear => ?_, fun x rest opened list own => ?_⟩
  · by_cases listed : ∃ x ∈ w.waiters, x.agent = k
    · refine granted ((leaveWaiters_listed s.clock hw listed).trans ?_)
      rw [if_neg fun front => rear.elim (fun g => g front.2) fun g => g front.1, unlist_unreserved orderly rear]
    · have off : ∀ x ∈ w.waiters, x.agent ≠ k := fun x hx e => listed ⟨x, hx, e⟩
      have same : w.waiters.filter (·.agent != k) = w.waiters := List.filter_eq_self.2 fun x hx => by simpa using off x hx
      rw [same]
      exact granted ((leaveWaiters_unlisted s.clock hw off).trans (withWindow_self hw).symm)
  · have head : w.head = some k := by simp [Window.head, list, own]
    refine ⟨granted ?_, fun last => headService_noWaiters s.clock ((window_withWindow _ i i _).trans (if_pos rfl)) last⟩
    rw [leaveWaiters_listed s.clock hw ⟨x, by simp [list], own⟩, if_pos ⟨opened, head⟩, unlist_head once orderly list own]

end Sys2Proof.Machine
end

section
/-! SUPPORT. PIN and UNPIN (R76, R78, R79). -/

namespace Sys2Proof.Machine

open Sys2Proof.Safety

variable {d : Directory} {i : SlotId} {w : Window} {k : Agent}

/-- A pin count set, with the qualifying grant of R66. -/
theorem setPins_granted (now : Tick) (n : BitVec 4) (hw : d.window i = some w) :
    (d.setPins i k n).modWindow i (·.granted now) = withWindow d i { touched w now with pins := put w.pins k n } := by
  rw [setPins_eq hw, modWindow_eq_withWindow (w := { w with pins := put w.pins k n }) _ (by simp), withWindow_withWindow]
  rfl

theorem isOutstanding_iff {m : Membership} : m.isOutstanding = true ↔ ∃ x, m = .outstanding x := by
  cases m <;> simp [Membership.isOutstanding]

theorem isBlocked_iff {m : Membership} : m.isBlocked = true ↔ m = .blocked := by
  cases m <;> simp [Membership.isBlocked]

/-- The places that a window's context gives an agent. -/
theorem isOutstanding_member_iff (hw : d.window i = some w) :
    (d.member i k).isOutstanding = true ↔ ∃ c x, w.context = some c ∧ look c.members k = .outstanding x := by
  rw [isOutstanding_iff]
  cases hc : w.context with
  | none => simp [Directory.member, context_eq, hw, hc]
  | some c => simp [member_of_context hw hc]

theorem isBlocked_member_iff (hw : d.window i = some w) :
    (d.member i k).isBlocked = true ↔ ∃ c, w.context = some c ∧ look c.members k = .blocked := by
  rw [isBlocked_iff]
  cases hc : w.context with
  | none => simp [Directory.member, context_eq, hw, hc]
  | some c => simp [member_of_context hw hc]

/-- The checks of a PIN in OPEN and RECALLING, in the order of R76. -/
theorem decidePin_calm (now : Tick) (a : Addr) (hd : d.detaching k = false) (hs : w.state = .opened ∨ w.state = .recalling) :
    d.decidePin now k a i w =
      if w.holding k = .none then (d, d.answer i w k a (.deny .notHolder))
      else if (d.member i k).isOutstanding then (d, d.answer i w k a (.retry .recalling))
      else if w.pinCount k = 15 then (d, d.answer i w k a (.deny .pinLimit))
      else ((d.setPins i k (w.pinCount k + 1)).modWindow i (·.granted now), d.answer i w k a .grant) := by
  rcases hs with hs | hs <;> simp [Directory.decidePin, hd, hs, Config.pinLimit]

/-- The last pin of a Blocked agent gone: it is Outstanding, and its RECALL waits for the verdict (R79). -/
theorem enterOutstanding_awaitVerdict {c : RecallContext} {l : Level} (now : Tick) (hw : d.window i = some w)
    (hc : w.context = some c) (ht : look c.targets k = some l) :
    ∃ a n, (d.enterOutstanding now i k).awaitVerdict i k =
        withAgent (withWindow d i
          { w with
            context := some
              { c with
                members := put c.members k (.outstanding { freshWait (d.agent k) now n with awaitsVerdict := true }) } }) k a ∧
      RecallPlaced (d.agent k) a i l
        { handle := slotHandle d i, agentBase := w.fields.agentBase, size := w.fields.size } n := by
  refine ⟨_, _, ?_, placeRecall_placed (d.agent k) i l (d.noticeFields i w)⟩
  rw [enterOutstanding_eq hw hc ht, Directory.awaitVerdict, modContext_eq _ (by simp; rfl) rfl, withAgent_withWindow,
    withWindow_withWindow]
  simp [RecallContext.markVerdict, RecallContext.setMember, put_put]

/-- Settles O33: the checks of PIN in their order, and the three cases of UNPIN. -/
theorem pinAndUnpinCount : Obligations.PinAndUnpinCount := by
  refine ⟨fun s k r i w h online calm => ?_, fun s k r i w h => ?_⟩
  · have hw : s.directory.window i = some w := h.found.1
    have decided := fun {d v} => exec_found (d := d) (v := v) h (.inl rfl)
    have checks := decidePin_calm (i := i) s.clock r.address (detaching_of_online online) calm
    refine ⟨fun none => decided ?_, fun held => ⟨fun c x hc hm => decided ?_, fun free => ?_⟩⟩
    · rw [otherDecision, checks, if_pos none, answer_turned _ _ _ _ _ _ (by nofun)]
    · rw [otherDecision, checks, if_neg held, if_pos ((isOutstanding_member_iff hw).2 ⟨c, x, hc, hm⟩),
        answer_turned _ _ _ _ _ _ (by nofun)]
    · have calm : ¬ (s.directory.member i k).isOutstanding = true := fun g => by
        obtain ⟨c, x, hc, hm⟩ := (isOutstanding_member_iff hw).1 g
        exact free c x hc hm
      refine ⟨fun full => decided ?_, fun room => decided ?_⟩
      · rw [otherDecision, checks, if_neg held, if_neg calm, if_pos full, answer_turned _ _ _ _ _ _ (by nofun)]
      · rw [otherDecision, checks, if_neg held, if_neg calm, if_neg room, answer_grant, setPins_granted _ _ hw]
  · have hw : s.directory.window i = some w := h.found.1
    have decided := fun {d v} => exec_found (d := d) (v := v) h (.inr (.inl rfl))
    refine ⟨fun zero => decided ?_, fun pinned stays => decided ?_, fun c l one hc hb ht => ?_⟩
    · rw [otherDecision, Directory.decideUnpin, if_pos zero, answer_turned _ _ _ _ _ _ (by nofun)]
    · have calm : (w.pinCount k = 1 && (s.directory.member i k).isBlocked) = false := by
        by_contra g
        simp only [Bool.not_eq_false, Bool.and_eq_true, decide_eq_true_eq] at g
        obtain ⟨c, hc, hb⟩ := (isBlocked_member_iff hw).1 g.2
        exact stays g.1 c hc hb
      rw [otherDecision, Directory.decideUnpin, if_neg pinned]
      simp only [calm, Bool.false_eq_true, if_false, setPins_granted _ _ hw, answer_grant]
    · have moves : (w.pinCount k = 1 && (s.directory.member i k).isBlocked) = true := by
        simp [one, (isBlocked_member_iff hw).2 ⟨c, hc, hb⟩]
      have zero : w.pinCount k - 1 = 0 := by simp [one]
      obtain ⟨a, n, entered, placed⟩ := enterOutstanding_awaitVerdict (k := k) s.clock
        (d := withWindow s.directory i { touched w s.clock with pins := put w.pins k 0 })
        (w := { touched w s.clock with pins := put w.pins k 0 }) (i := i) (by simp) hc ht
      refine ⟨a, n, decided ?_, by simpa [touched] using placed⟩
      rw [otherDecision, Directory.decideUnpin, if_neg (by simp [one])]
      simp only [moves, if_true, setPins_granted _ _ hw, answer_grant, zero, entered, withWindow_withWindow,
        agent_withWindow]

end Sys2Proof.Machine
end

section
/-! SUPPORT. What the end of a recall and head service leave alone (R87, R116 to R118): every agent's state, settings, Holding Count and
detach in progress, the records written before, and the windows in which DETACH asks for no agent. -/

namespace Sys2Proof.Machine

open Sys2Proof.Safety

/-- The records differ in score, notices and backlog alone. -/
structure AgentRecord.SameStanding (a b : AgentRecord) : Prop where
  state : b.state = a.state
  settings : b.settings = a.settings
  count : b.holdingCount = a.holdingCount
  detach : b.detach = a.detach

theorem AgentRecord.SameStanding.refl (a : AgentRecord) : a.SameStanding a := ⟨rfl, rfl, rfl, rfl⟩

theorem AgentRecord.SameStanding.trans {a b c : AgentRecord} (h : a.SameStanding b) (g : b.SameStanding c) :
    a.SameStanding c :=
  ⟨g.state.trans h.state, g.settings.trans h.settings, g.count.trans h.count, g.detach.trans h.detach⟩

theorem sameStanding_of_placed {a b : AgentRecord} {i : SlotId} {l : Level} {f : NoticeFields} {n : NoticeStatus}
    (h : RecallPlaced a b i l f n) : a.SameStanding b := by
  obtain ⟨e, _⟩ := h
  rw [← e]
  exact ⟨rfl, rfl, rfl, rfl⟩

/-- DETACH asks for agent `k` in the slots of this list (R94, R161). -/
theorem mem_detachSlots {d : Directory} {k : Agent} {i : SlotId} :
    i ∈ d.detachSlots k ↔ ∃ c, d.context i = some c ∧ look c.detachAgents k = true := by
  simp [Directory.detachSlots, allSlots, Option.any_eq_true]

/-- From `d` to `d'` every agent keeps its standing, records are only added, and DETACH asks for no agent anew. -/
structure Directory.Steady (d d' : Directory) : Prop where
  agents : ∀ k, (d.agent k).SameStanding (d'.agent k)
  completions : d.completions <+: d'.completions
  detaches : ∀ k i, i ∈ d'.detachSlots k → i ∈ d.detachSlots k

namespace Directory

theorem Steady.refl (d : Directory) : d.Steady d := ⟨fun _ => .refl _, List.prefix_refl _, fun _ _ h => h⟩

theorem Steady.trans {a b c : Directory} (h : a.Steady b) (g : b.Steady c) : a.Steady c :=
  ⟨fun k => (h.agents k).trans (g.agents k), h.completions.trans g.completions,
    fun k i hi => h.detaches k i (g.detaches k i hi)⟩

section

variable {a d : Directory}

/-- An update that makes no context in which DETACH asks anew, and leaves the agents and the records alone. -/
theorem Steady.of_contexts {e : Directory} (h : a.Steady d) (agents : e.agents = d.agents)
    (completions : d.completions <+: e.completions)
    (contexts : ∀ i c', e.context i = some c' → ∃ c, d.context i = some c ∧ c'.detachAgents = c.detachAgents) : a.Steady e := by
  refine h.trans ⟨fun k => ?_, completions, fun k i hi => ?_⟩
  · rw [Directory.agent, Directory.agent, agents]
    exact .refl _
  · obtain ⟨c', hc', hk⟩ := mem_detachSlots.1 hi
    obtain ⟨c, hc, same⟩ := contexts i c' hc'
    exact mem_detachSlots.2 ⟨c, hc, same ▸ hk⟩

theorem Steady.modWindow (h : a.Steady d) (i : SlotId) {f : Window → Window}
    (g : ∀ w c', (f w).context = some c' → ∃ c, w.context = some c ∧ c'.detachAgents = c.detachAgents) :
    a.Steady (d.modWindow i f) := by
  refine h.of_contexts rfl (List.prefix_refl _) fun j c' hc' => ?_
  rw [context_eq, window_modWindow] at hc'
  split at hc'
  · obtain ⟨v, hv, hvc⟩ := Option.bind_eq_some_iff.1 hc'
    obtain ⟨w, hw, rfl⟩ := Option.map_eq_some_iff.1 hv
    obtain ⟨c, hc, same⟩ := g w c' hvc
    exact ⟨c, by simp [context_eq, hw, hc], same⟩
  · exact ⟨c', hc', rfl⟩

/-- An update of a window outside its context. -/
theorem Steady.touch (h : a.Steady d) (i : SlotId) {f : Window → Window} (g : ∀ w, (f w).context = w.context) :
    a.Steady (d.modWindow i f) := h.modWindow i fun w c' hc' => ⟨c', (g w) ▸ hc', rfl⟩

theorem Steady.modContext (h : a.Steady d) (i : SlotId) {f : RecallContext → RecallContext}
    (g : ∀ c, (f c).detachAgents = c.detachAgents) : a.Steady (d.modContext i f) := by
  refine h.modWindow i fun w c' hc' => ?_
  obtain ⟨c, hc, rfl⟩ := Option.map_eq_some_iff.1 hc'
  exact ⟨c, hc, g c⟩

theorem Steady.modAgent (h : a.Steady d) (k : Agent) {f : AgentRecord → AgentRecord}
    (g : (d.agent k).SameStanding (f (d.agent k))) : a.Steady (d.modAgent k f) := by
  refine h.trans ⟨fun j => ?_, List.prefix_refl _, fun _ _ hi => hi⟩
  rw [agent_modAgent]
  split
  · next e => exact e ▸ g
  · exact .refl _

theorem Steady.finish (h : a.Steady d) (r : Record) : a.Steady (d.finish r) :=
  h.of_contexts rfl (List.prefix_append _ _) fun _ c' hc' => ⟨c', hc', rfl⟩

theorem Steady.park (h : a.Steady d) (p : Parked) : a.Steady (d.park p) :=
  h.of_contexts rfl (List.prefix_refl _) fun _ c' hc' => ⟨c', hc', rfl⟩

theorem Steady.modAlerts (h : a.Steady d) (f : Alerts → Alerts) : a.Steady (d.modAlerts f) :=
  h.of_contexts rfl (List.prefix_refl _) fun _ c' hc' => ⟨c', hc', rfl⟩

theorem Steady.choices (h : a.Steady d) (n : Nat) : a.Steady { d with choices := n } :=
  h.of_contexts rfl (List.prefix_refl _) fun _ c' hc' => ⟨c', hc', rfl⟩

theorem Steady.freeSlot (h : a.Steady d) (i : SlotId) : a.Steady (d.freeSlot i) := by
  refine h.of_contexts rfl (List.prefix_refl _) fun j c' hc' => ⟨c', ?_, rfl⟩
  by_cases e : j = i
  · simp [context_eq, e] at hc'
  · simpa [context_eq, e] using hc'

theorem Steady.foldl {α : Type} (h : a.Steady d) (f : Directory → α → Directory)
    (g : ∀ (d : Directory) (x : α), d.Steady (f d x)) (l : List α) : a.Steady (l.foldl f d) := by
  induction l generalizing d with
  | nil => exact h
  | cons x l ih => exact ih (h.trans (g d x))

/-! ### Notices (R38, R40) -/

theorem Steady.markNotice (h : a.Steady d) (i : SlotId) (k : Agent) (n : NoticeStatus) : a.Steady (d.markNotice i k n) :=
  h.modContext i fun c => by
    unfold RecallContext.markNotice
    split <;> rfl

theorem Steady.fillPlace (h : a.Steady d) (k : Agent) : a.Steady (d.fillPlace k) := by
  unfold Directory.fillPlace
  split
  · split
    · exact h.modAgent k ⟨rfl, rfl, rfl, rfl⟩
    · split
      · exact (h.modAgent k ⟨rfl, rfl, rfl, rfl⟩).markNotice _ k _
      · exact h
  · exact h

theorem Steady.withdrawRecall (h : a.Steady d) (i : SlotId) (k : Agent) : a.Steady (d.withdrawRecall i k) := by
  unfold Directory.withdrawRecall
  split
  · exact (h.modAgent k ⟨rfl, rfl, rfl, rfl⟩).fillPlace k
  · exact h

theorem Steady.withdrawAll (h : a.Steady d) (i : SlotId) : a.Steady (d.withdrawAll i) :=
  h.foldl _ (fun d k => (Steady.refl d).withdrawRecall i k) _

/-! ### Head service (R87) -/

/-- The agents that a recall without force asks keep their standing, and no window gets DETACH as a cause (R98, R99). -/
theorem Steady.of_started {d' : Directory} {now : Tick} {i : SlotId} {w : Window} {opened : RecallContext}
    {targets : Agent → Option Level} (h : RecallStarted d d' now i w opened targets)
    (plain : opened.detachAgents = Vector.replicate 8 false) : d.Steady d' := by
  obtain ⟨⟨c, hw, parts, agents⟩, _, others, completions, _⟩ := h
  refine ⟨fun j => ?_, completions ▸ List.prefix_refl _, fun k j hj => ?_⟩
  · have g := (agents j).2
    split at g
    · rw [g.2]
      exact .refl _
    · unfold Enters at g
      split at g
      · obtain ⟨n, _, placed⟩ := g
        exact sameStanding_of_placed placed
      · rw [g.2]
        exact .refl _
  · obtain ⟨c', hc', hk⟩ := mem_detachSlots.1 hj
    by_cases e : j = i
    · subst e
      have asks : c'.detachAgents = opened.detachAgents := by
        rw [context_eq, hw, Option.bind_some, Option.some.injEq] at hc'
        rw [← hc', ← parts]
      rw [asks, plain, look_replicate] at hk
      cases hk
    · refine mem_detachSlots.2 ⟨c', ?_, hk⟩
      have same : d'.window j = d.window j := congrArg Slot.window (others j e)
      rw [context_eq, same] at hc'
      exact hc'

theorem Steady.withWindow {i : SlotId} {v w : Window} (hw : d.window i = some w) (hc : v.context = w.context) :
    d.Steady (withWindow d i v) := by
  refine (Steady.refl d).of_contexts rfl (List.prefix_refl _) fun j c' hc' => ⟨c', ?_, rfl⟩
  by_cases e : j = i
  · subst e
    simpa [context_eq, hw, hc] using hc'
  · simpa [context_eq, e] using hc'

theorem steady_headService (d : Directory) (now : Tick) (i : SlotId) : d.Steady (d.headService now i) := by
  cases hw : d.window i with
  | none => rw [Directory.headService, hw]; exact .refl d
  | some w =>
    by_cases run : w.context ≠ none ∨ w.reservation ≠ none
    · rw [headService_idle hw run]
      exact .refl d
    · push Not at run
      obtain ⟨hc, hr⟩ := run
      cases hs : w.servable with
      | nil =>
        rw [headService_none hw hc hr hs]
        exact .withWindow hw rfl
      | cons x rest =>
        rw [headService_some hw hc hr hs]
        split
        · exact .withWindow hw rfl
        · refine Steady.trans (.withWindow (v := { w with waiters := x :: rest }) hw rfl) ?_
          exact .of_started (startRecall_waiter (w := { w with waiters := x :: rest }) (by simp)).1 rfl

theorem Steady.headService (h : a.Steady d) (now : Tick) (i : SlotId) : a.Steady (d.headService now i) :=
  h.trans (steady_headService d now i)

/-! ### The end of a recall (R116, R117, R118) -/

theorem Steady.removeContext (h : a.Steady d) (i : SlotId) : a.Steady (d.modWindow i fun w => { w with context := none }) :=
  h.modWindow i fun _ _ hc' => nomatch hc'

theorem Steady.closeContext (h : a.Steady d) (now : Tick) (i : SlotId) : a.Steady (d.closeContext now i) := by
  have withdrawn := (h.removeContext i).withdrawAll i
  unfold Directory.closeContext
  exact (withdrawn.touch i (f := (·.armIdle now)) fun _ => rfl).headService now i

theorem Steady.applyRevision (h : a.Steady d) (i : SlotId) : a.Steady (d.applyRevision i) := by
  unfold Directory.applyRevision
  split
  · exact h
  · refine Steady.finish (h.modWindow i fun w c' hc' => ?_) _
    obtain ⟨c, hc, rfl⟩ := Option.map_eq_some_iff.1 hc'
    exact ⟨c, hc, rfl⟩

theorem Steady.endWatch (h : a.Steady d) (i : SlotId) : a.Steady (d.endWatch i) := by
  unfold Directory.endWatch
  split
  · exact h
  · refine Steady.finish ?_ _
    exact h.touch i fun _ => rfl

theorem Steady.completeRetirement (h : a.Steady d) (i : SlotId) : a.Steady (d.completeRetirement i) := by
  have gone := (((h.removeContext i).withdrawAll i).endWatch i).freeSlot i
  unfold Directory.completeRetirement
  dsimp only
  split
  · exact gone
  · exact gone.finish _

theorem Steady.complete (h : a.Steady d) (now : Tick) (i : SlotId) (c : RecallContext) : a.Steady (d.complete now i c) := by
  unfold Directory.complete
  split
  · exact h.completeRetirement i
  · split
    · exact (h.applyRevision i).closeContext now i
    · exact h.closeContext now i

theorem Steady.checkCompletion (h : a.Steady d) (now : Tick) (i : SlotId) : a.Steady (d.checkCompletion now i) := by
  unfold Directory.checkCompletion
  split
  · exact h
  · split
    · exact h
    · exact h.complete now i _

theorem Steady.afterCauseLeft (h : a.Steady d) (now : Tick) (i : SlotId) : a.Steady (d.afterCauseLeft now i) := by
  unfold Directory.afterCauseLeft
  split
  · exact h
  · split
    · exact h.closeContext now i
    · exact h

theorem Steady.reportRelease (h : a.Steady d) (now : Tick) (i : SlotId) (k : Agent) (x : Holding) :
    a.Steady (d.reportRelease now i k x) := by
  have left := h.modContext i (f := (·.setMember k .neither)) fun _ => rfl
  unfold Directory.reportRelease
  split
  · exact h
  · dsimp only
    split
    · refine Steady.checkCompletion ?_ now i
      split
      · exact (left.withdrawRecall i k).modAgent k ⟨rfl, rfl, rfl, rfl⟩
      · exact left
    · exact h

end

end Directory

end Sys2Proof.Machine
end

section
/-! SUPPORT. The end of a detach (R155, R161; R181, fifth point): what a completed detach leaves, and the one detach that an event
completes. -/

namespace Sys2Proof.Machine

open Sys2Proof.Safety

/-! ### Free orders (log 9) -/

theorem mem_insertAt_iff {α : Type} {x y : α} {n : Nat} {l : List α} : y ∈ insertAt x n l ↔ y = x ∨ y ∈ l := by
  refine ⟨mem_insertAt, fun h => ?_⟩
  induction n generalizing l with
  | zero => simpa [insertAt] using h
  | succ n ih =>
    cases l with
    | nil => simpa [insertAt] using h
    | cons z l =>
      simp only [insertAt, List.mem_cons] at h ⊢
      rcases h with rfl | rfl | h
      · exact .inr (ih (.inl rfl))
      · exact .inl rfl
      · exact .inr (ih (.inr h))

/-- A free order holds every entry of the list. -/
theorem mem_freeOrder_of_mem {α : Type} {x : α} (n : Nat) {l : List α} (h : x ∈ l) : x ∈ (freeOrder n l).2 := by
  induction n, l using freeOrder.induct with
  | case1 n => exact h
  | case2 n y => exact h
  | case3 n y z l ih =>
    rw [freeOrder]
    refine mem_insertAt_iff.2 ?_
    rcases List.mem_cons.1 h with rfl | h
    · exact .inl rfl
    · exact .inr (ih h)

/-! ### DETACH leaves the windows (R161) -/

variable {d : Directory} {k : Agent}

/-- DETACH asks for the agent in the window of the slot no more. -/
theorem leaveDetach_steady (d : Directory) (now : Tick) (k : Agent) (b : Bool) (i : SlotId) :
    d.Steady (d.leaveDetach now k b i) ∧ i ∉ (d.leaveDetach now k b i).detachSlots k := by
  have dismissed : d.Steady (d.modContext i (·.dismiss k b)) ∧ i ∉ (d.modContext i (·.dismiss k b)).detachSlots k := by
    have asks : ∀ (c : RecallContext) (j : Agent), look (c.dismiss k b).detachAgents j =
        if j = k then false else look c.detachAgents j := fun c j => by
      cases b <;> exact detach_setDetachAgent c k j false
    refine ⟨⟨fun _ => .refl _, List.prefix_refl _, fun a j hj => ?_⟩, fun hi => ?_⟩
    · obtain ⟨c', hc', hk⟩ := mem_detachSlots.1 hj
      rw [context_modContext] at hc'
      split at hc'
      · obtain ⟨c, hc, rfl⟩ := Option.map_eq_some_iff.1 hc'
        rw [asks] at hk
        split at hk
        · cases hk
        · exact mem_detachSlots.2 ⟨c, hc, hk⟩
      · exact mem_detachSlots.2 ⟨c', hc', hk⟩
    · obtain ⟨c', hc', hk⟩ := mem_detachSlots.1 hi
      rw [context_modContext, if_pos rfl] at hc'
      obtain ⟨c, _, rfl⟩ := Option.map_eq_some_iff.1 hc'
      rw [asks, if_pos rfl] at hk
      cases hk
  have after := (Directory.Steady.refl (d.modContext i (·.dismiss k b))).afterCauseLeft now i
  exact ⟨dismissed.1.trans after, fun hi => dismissed.2 (after.detaches k i hi)⟩

theorem leaveDetaches_steady (now : Tick) (k : Agent) (b : Bool) (l : List SlotId) (d : Directory) :
    d.Steady (l.foldl (fun d i => d.leaveDetach now k b i) d) ∧
      ∀ i ∈ l, i ∉ (l.foldl (fun d i => d.leaveDetach now k b i) d).detachSlots k := by
  induction l generalizing d with
  | nil => exact ⟨.refl d, fun _ h => nomatch h⟩
  | cons j l ih =>
    obtain ⟨one, left⟩ := leaveDetach_steady d now k b j
    obtain ⟨rest, others⟩ := ih (d.leaveDetach now k b j)
    refine ⟨one.trans rest, fun i hi => ?_⟩
    rcases List.mem_cons.1 hi with rfl | hi
    · exact fun h => left (rest.detaches k i h)
    · exact others i hi

/-- A detach that completes leaves every window without its agent among those DETACH asks for. -/
theorem dismissed_steady (d : Directory) (now : Tick) (k : Agent) :
    d.Steady (d.dismissed now k) ∧ (d.dismissed now k).detachSlots k = [] := by
  obtain ⟨steady, left⟩ := leaveDetaches_steady now k true (freeOrder d.choices (d.detachSlots k)).2
    { d with choices := (freeOrder d.choices (d.detachSlots k)).1 }
  have whole : d.Steady (d.dismissed now k) := ((Directory.Steady.refl d).choices _).trans steady
  refine ⟨whole, List.eq_nil_iff_forall_not_mem.2 fun i hi => left i ?_ hi⟩
  exact mem_freeOrder_of_mem _ (whole.detaches k i hi)

/-- The detach of an agent that holds nothing completes, its record last (R161, R181). -/
theorem completeDetach_ended {d₀ : Directory} {p : DetachInProgress} (now : Tick) (detach : (d.agent k).detach = some p)
    (empty : (d.agent k).holdingCount = 0) (settings : (d.agent k).settings = (d₀.agent k).settings)
    (completions : d₀.completions <+: d.completions) {p₀ : DetachInProgress} (tag : p.tag = p₀.tag) :
    DetachEnded d₀ (d.completeDetach now k) k p₀ p.forced := by
  obtain ⟨steady, left⟩ := dismissed_steady d now k
  have stands := steady.agents k
  have kept : (((d.dismissed now k).modAgent k fun a => { a.emptyNotices with state := .offline }).agent k).detach = some p := by
    rw [agent_modAgent, if_pos rfl]
    exact stands.detach.trans detach
  have ended : d.completeDetach now k =
      (((d.dismissed now k).modAgent k fun a => { a.emptyNotices with state := .offline }).modAgent k
        fun a => { a with detach := none }).finish
          (Record.counted p.tag .agentDetach .done (agentWord k) (BitVec.ofNat 32 p.forced)) := by
    rw [completeDetach_eq, Directory.endDetach, kept]
  have agent : (d.completeDetach now k).agent k =
      { (d.dismissed now k).agent k with state := .offline, notices := [], backlog := [], detach := none } := by
    rw [ended]
    simp [AgentRecord.emptyNotices]
  refine ⟨?_, ?_, fun q hq => ?_, fun i w hw c hc => ?_⟩
  · rw [agent]
    exact ⟨rfl, rfl, rfl, rfl, stands.count.trans empty, stands.settings.trans settings⟩
  · obtain ⟨others, grown⟩ := completions.trans steady.completions
    refine ⟨others, ?_⟩
    rw [ended, ← tag, grown]
    rfl
  · rw [ended] at hq
    rw [← tag]
    exact bne_iff_ne.1 (List.mem_filter.1 hq).2
  · by_contra asks
    rw [ended] at hw
    have : i ∈ (d.dismissed now k).detachSlots k :=
      mem_detachSlots.2 ⟨c, Option.bind_eq_some_iff.2 ⟨w, hw, hc⟩, by simpa using asks⟩
    rw [left] at this
    exact List.not_mem_nil this

/-! ### The end of an event (R161) -/

/-- The one agent whose Holding Count an event brings to 0 while it is DETACHING. -/
theorem emptied_one {before : Directory} (detaching : (d.agent k).state = .detaching) (empty : (d.agent k).holdingCount = 0)
    (held : (before.agent k).holdingCount ≠ 0)
    (others : ∀ j, j ≠ k → (d.agent j).state = .detaching → (d.agent j).holdingCount = (before.agent j).holdingCount) :
    before.emptied d = [k] := by
  have only : ∀ j, ((d.agent j).state == .detaching && (d.agent j).holdingCount == 0 && (before.agent j).holdingCount != 0) =
      (j == k) := fun j => by
    by_cases e : j = k
    · subst e
      simp [detaching, empty, held]
    · rw [beq_eq_false_iff_ne.2 e]
      by_contra g
      simp only [Bool.not_eq_false, Bool.and_eq_true, beq_iff_eq, bne_iff_ne] at g
      exact g.2 (others j e g.1.1 ▸ g.1.2)
  rw [Directory.emptied, List.filter_congr fun j _ => only j]
  rw [List.filter_beq, List.count_eq_one_of_mem (List.nodup_finRange 8) (List.mem_finRange k), List.replicate_one]

/-- An event that empties one DETACHING agent completes its detach, and no other. -/
theorem settle_one {before : Directory} (now : Tick) (detaching : (d.agent k).state = .detaching)
    (empty : (d.agent k).holdingCount = 0) (held : (before.agent k).holdingCount ≠ 0)
    (others : ∀ j, j ≠ k → (d.agent j).state = .detaching → (d.agent j).holdingCount = (before.agent j).holdingCount) :
    d.settle now before = d.completeDetach now k := by
  rw [Directory.settle, emptied_one detaching empty held others]
  rfl

end Sys2Proof.Machine
end

section
/-! SUPPORT. A parked detach that a RELEASE or a deadline completes (R65, R107, R109, R160, R161). -/

namespace Sys2Proof.Machine

open Sys2Proof.Safety

/-! ### The end of the event -/

/-- The event has brought the agent's Holding Count to 0 while its detach in progress stands as `p`, and changed no other DETACHING
agent's count; no record was lost. -/
structure Directory.Emptied (before d : Directory) (k : Agent) (p : DetachInProgress) : Prop where
  state : (d.agent k).state = .detaching
  settings : (d.agent k).settings = (before.agent k).settings
  count : (d.agent k).holdingCount = 0
  detach : (d.agent k).detach = some p
  others : ∀ j, j ≠ k → (d.agent j).state = .detaching → (d.agent j).holdingCount = (before.agent j).holdingCount
  completions : before.completions <+: d.completions

theorem Directory.Emptied.steady {before d e : Directory} {k : Agent} {p : DetachInProgress} (h : before.Emptied d k p)
    (g : d.Steady e) : before.Emptied e k p where
  state := (g.agents k).state.trans h.state
  settings := (g.agents k).settings.trans h.settings
  count := (g.agents k).count.trans h.count
  detach := (g.agents k).detach.trans h.detach
  others j hj hd := (g.agents j).count.trans (h.others j hj ((g.agents j).state ▸ hd))
  completions := h.completions.trans g.completions

/-- The detach ends with the event. -/
theorem Directory.Emptied.settle {before d : Directory} {k : Agent} {p p₀ : DetachInProgress} (h : before.Emptied d k p)
    (now : Tick) (held : (before.agent k).holdingCount ≠ 0) (tag : p.tag = p₀.tag) :
    DetachEnded before (d.settle now before) k p₀ p.forced := by
  rw [settle_one now h.state h.count held h.others]
  exact completeDetach_ended now h.detach h.count h.settings h.completions tag

variable {d : Directory} {i : SlotId} {w : Window} {k : Agent} {p : DetachInProgress}

theorem countAfter_lost {n : Nat} {h : Holding} (held : h ≠ .none) : countAfter n h .none = n - 1 := by
  cases h with
  | none => exact absurd rfl held
  | shared | owner => rfl

theorem above_none_iff {h : Holding} : h.above .none = true ↔ h ≠ .none := by cases h <;> decide

/-! ### RELEASE (R65) -/

/-- The holding and the pins of the agent that releases are gone (R65). -/
theorem emptied_released (hw : d.window i = some w) (held : w.holding k ≠ .none) (detaching : (d.agent k).state = .detaching)
    (detach : (d.agent k).detach = some p) (one : (d.agent k).holdingCount = 1) :
    d.Emptied ((d.setHolding i k .none).setPins i k 0) k p := by
  have agent : ∀ j, ((d.setHolding i k .none).setPins i k 0).agent j =
      if j = k then { d.agent k with holdingCount := 0 } else d.agent j := fun j => by
    rw [agent_setPins, setHolding_eq hw, agent_withAgent, countAfter_lost held, one]
    rfl
  have own := (agent k).trans (if_pos rfl)
  refine ⟨?_, ?_, ?_, ?_, fun j hj _ => by rw [agent, if_neg hj], ?_⟩
  · rw [own]; exact detaching
  · rw [own]
  · rw [own]
  · rw [own]; exact detach
  · rw [Directory.completions_setPins, setHolding_eq hw]
    exact List.prefix_refl _

/-- A holding released to NONE is reported as NONE (R111). -/
theorem releaseVerdict_none {d' : Directory} (a : Addr) (gone : ∀ v, d'.window i = some v → v.holding k = .none) :
    d.releaseVerdict d' i w k a = granted w (slotHandle d i) .none a := by
  have : ((d'.window i).map (·.holding k)).getD .none = .none := by
    cases h : d'.window i with
    | none => rfl
    | some v => exact gone v h
  rw [Directory.releaseVerdict, answer_grant, this]
  rfl

/-- A RELEASE of a DETACHING agent's last holding. -/
theorem release_endsDetach {s : State} {r : Request} (h : Found s k r .release i w) (level : r.level = 0)
    (held : w.holding k ≠ .none) (detaching : (s.directory.agent k).state = .detaching)
    (detach : (s.directory.agent k).detach = some p) (one : (s.directory.agent k).holdingCount = 1) :
    ∃ d, exec .release s = .next (answered s k (granted w (slotHandle s.directory i) .none r.address) d) ∧
      DetachEnded s.directory d k p p.forced := by
  have hw : s.directory.window i = some w := h.found.1
  have emptied := (emptied_released hw held detaching detach one).steady
    ((Directory.Steady.refl _).reportRelease s.clock i k .none)
  have falls : ((s.directory.setHolding i k .none).setPins i k 0).Falls
      (s.directory.lowerByRelease s.clock i k .none) :=
    ((Directory.Falls.refl _).reportRelease s.clock i k .none).settle s.clock s.directory
  refine ⟨s.directory.lowerByRelease s.clock i k .none, ?_, emptied.settle s.clock (by simp [one]) rfl⟩
  rw [exec_release h.next, decideRelease_of_found h (l := .none) level, Directory.decideRelease,
    if_pos (above_none_iff.2 held)]
  dsimp only [Level.holding]
  rw [releaseVerdict_none]
  intro v hv
  obtain ⟨u, hu, fall⟩ := falls i v hv
  rw [window_setPins, if_pos rfl, window_setHolding, if_pos rfl, hw] at hu
  have none : u.holding k = .none := by
    obtain rfl := Option.some.inj hu
    simp
  have lower := fall.lower k
  rw [none] at lower
  exact rank_eq_zero.1 (Nat.le_zero.1 lower)

/-! ### A deadline that passes (R107, R109) -/

theorem placeRevoked_keeps (a : AgentRecord) (i : SlotId) (f : NoticeFields) :
    a.SameStanding (a.placeRevoked i f) ∧ (a.placeRevoked i f).faultScore = a.faultScore := by
  unfold AgentRecord.placeRevoked
  repeat' split
  all_goals exact ⟨⟨rfl, rfl, rfl, rfl⟩, rfl⟩

/-- The record of a DETACHING agent after a revocation to NONE (R109, R160). -/
theorem revoked_detaching {a : AgentRecord} {h : Holding} (i : SlotId) (f : NoticeFields) (held : h ≠ .none)
    (detaching : a.state = .detaching) (detach : a.detach = some p) :
    (a.revoked i f h .none).state = .detaching ∧ (a.revoked i f h .none).settings = a.settings ∧
      (a.revoked i f h .none).holdingCount = a.holdingCount - 1 ∧
      (a.revoked i f h .none).detach = some { p with forced := p.forced + 1 } ∧
      (a.revoked i f h .none).faultScore = a.faultScore := by
  obtain ⟨standing, score⟩ := placeRevoked_keeps { a with holdingCount := countAfter a.holdingCount h .none } i f
  rw [AgentRecord.revoked, AgentRecord.countRevocation, if_pos (standing.state.trans detaching)]
  refine ⟨standing.state.trans detaching, standing.settings, standing.count.trans (countAfter_lost held), ?_, score⟩
  rw [standing.detach, detach]
  rfl

/-- A revocation to NONE of a DETACHING agent's last holding, counted to its detach (R109, R160). -/
theorem emptied_revoked {c : RecallContext} (force : Bool) (hw : d.window i = some w) (hc : w.context = some c)
    (ht : look c.targets k = some .none) (held : w.holding k ≠ .none) (detaching : (d.agent k).state = .detaching)
    (detach : (d.agent k).detach = some p) (one : (d.agent k).holdingCount = 1) :
    d.Emptied (d.revoke i k force) k { p with forced := p.forced + 1 } ∧
      ((d.revoke i k force).agent k).faultScore = (d.agent k).faultScore := by
  have lowered : (w.holding k).lowered .none = .none := by
    rw [Holding.lowered, if_pos (above_none_iff.2 held)]
    rfl
  obtain ⟨state, settings, count, counted, score⟩ := revoked_detaching i (d.noticeFields i w) held detaching detach
  have agent : ∀ j, (d.revoke i k force).agent j =
      if j = k then (d.agent k).revoked i (d.noticeFields i w) (w.holding k) .none else d.agent j := fun j => by
    rw [Directory.revoke_eq force hw hc ht, agent_withAgent, lowered]
    rfl
  have own := (agent k).trans (if_pos rfl)
  refine ⟨⟨?_, ?_, ?_, ?_, fun j hj _ => by rw [agent, if_neg hj], ?_⟩, ?_⟩
  · rw [own, state]
  · rw [own, settings]
  · rw [own, count, one]
  · rw [own, counted]
  · rw [Directory.revoke_eq force hw hc ht]
    exact List.prefix_refl _
  · rw [own, score]

theorem fenceReached_eq_false {a b : AgentRecord} {n : Nat} (below : BelowThreshold a n) (settings : b.settings = a.settings)
    (score : b.faultScore = raised a.faultScore n) : b.fenceReached = false := by
  rw [AgentRecord.fenceReached, settings, score]
  rcases below with zero | less
  · simp [zero]
  · have : ¬ a.settings.fenceThreshold.toNat ≤ (raised a.faultScore n).toNat := Nat.not_le.2 less
    simp [this]

/-- A revocation on timeout of a DETACHING agent's last holding, below the fence threshold. -/
theorem deadline_endsDetach {s : State} {c : RecallContext} {x : Wait} (h : Passing s i k w c x .none)
    (used : ¬ x.retriesUsed < (s.directory.agent k).settings.retries.toNat) (below : BelowThreshold (s.directory.agent k) 4)
    (detaching : (s.directory.agent k).state = .detaching) (detach : (s.directory.agent k).detach = some p)
    (one : (s.directory.agent k).holdingCount = 1) :
    ∃ d, exec (.recallDeadline i k) s = .next { s with directory := d } ∧ DetachEnded s.directory d k p (p.forced + 1) := by
  have taken : s.directory.dueWait i k = some x := by
    simp [Directory.dueWait, member_of_context h.window h.context, h.member, h.due]
  have held : w.holding k ≠ .none := ne_none_of_above (above_iff.2 h.above)
  obtain ⟨revoked, score⟩ := emptied_revoked false h.window h.context h.target held detaching detach one
  have scored := revoked.steady (((Directory.Steady.refl _).modAgent k (f := fun a => { a with faultScore := raised a.faultScore 4 })
    ⟨rfl, rfl, rfl, rfl⟩).modAlerts (·.setForcedRevoke k))
  have calm : ((((s.directory.revoke i k false).addScore k 4).modAlerts (·.setForcedRevoke k)).agent k).fenceReached = false := by
    refine fenceReached_eq_false below scored.settings ?_
    rw [agent_modAlerts, Directory.addScore, agent_modAgent, if_pos rfl, score]
  have passed : s.directory.passDeadline s.clock i k x =
      ((((s.directory.revoke i k false).addScore k 4).modAlerts (·.setForcedRevoke k)).checkCompletion s.clock i).settle
        s.clock s.directory := by
    simp only [Directory.passDeadline, if_neg used, Directory.revokeOnTimeout, Directory.fenceCheck, calm, Bool.false_eq_true,
      if_false]
  refine ⟨s.directory.passDeadline s.clock i k x, ?_, ?_⟩
  · show Host.Outcome.next _ = _
    rw [taken]
  · rw [passed]
    exact (scored.steady ((Directory.Steady.refl _).checkCompletion s.clock i)).settle s.clock (by simp [one]) rfl

end Sys2Proof.Machine
end

section
/-! SUPPORT. A parked detach that a forced REVISE or RETIRE completes, by the revocation of its Blocked agent (R101, R125, R135, R160): one
agent's place in a recall, through all that the cause does with the others. -/

namespace Sys2Proof.Machine

open Sys2Proof.Safety

/-! ### One agent's place, left alone -/

/-- The window keeps agent `k`'s holding, and a context of its keeps agent `k`'s place and target. -/
def Window.Spares (k : Agent) (w w' : Window) : Prop :=
  w'.holding k = w.holding k ∧
    ∀ c, w.context = some c →
      ∃ c', w'.context = some c' ∧ look c'.members k = look c.members k ∧ look c'.targets k = look c.targets k

/-- From `d` to `d'` agent `k`'s record stays as it is, its place in slot `i` too, and no record is lost. -/
structure Directory.Spares (i : SlotId) (k : Agent) (d d' : Directory) : Prop where
  window : ∀ w, d.window i = some w → ∃ w', d'.window i = some w' ∧ w.Spares k w'
  agent : d'.agent k = d.agent k
  states : ∀ j, (d'.agent j).state = (d.agent j).state
  completions : d.completions <+: d'.completions

namespace Directory

variable {i : SlotId} {k : Agent} {a d : Directory}

theorem Spares.refl (i : SlotId) (k : Agent) (d : Directory) : d.Spares i k d :=
  ⟨fun w hw => ⟨w, hw, rfl, fun c hc => ⟨c, hc, rfl, rfl⟩⟩, rfl, fun _ => rfl, List.prefix_refl _⟩

theorem Spares.trans {b c : Directory} (h : a.Spares i k b) (g : b.Spares i k c) : a.Spares i k c where
  window w hw := by
    obtain ⟨v, hv, holds, places⟩ := h.window w hw
    obtain ⟨u, hu, holds', places'⟩ := g.window v hv
    refine ⟨u, hu, holds'.trans holds, fun x hx => ?_⟩
    obtain ⟨y, hy, m, t⟩ := places x hx
    obtain ⟨z, hz, m', t'⟩ := places' y hy
    exact ⟨z, hz, m'.trans m, t'.trans t⟩
  agent := g.agent.trans h.agent
  states j := (g.states j).trans (h.states j)
  completions := h.completions.trans g.completions

theorem Spares.modWindow (h : a.Spares i k d) {f : Window → Window} (g : ∀ w, d.window i = some w → w.Spares k (f w)) :
    a.Spares i k (d.modWindow i f) := by
  refine h.trans ⟨fun w hw => ⟨f w, ?_, g w hw⟩, rfl, fun _ => rfl, List.prefix_refl _⟩
  rw [window_modWindow, if_pos rfl, hw, Option.map_some]

/-- An update outside holdings and context. -/
theorem Spares.touch (h : a.Spares i k d) {f : Window → Window} (holdings : ∀ w, (f w).holdings = w.holdings)
    (context : ∀ w, (f w).context = w.context) : a.Spares i k (d.modWindow i f) :=
  h.modWindow fun w _ => ⟨by simp [Window.holding, holdings], fun c hc => ⟨c, (context w).trans hc, rfl, rfl⟩⟩

theorem Spares.modContext (h : a.Spares i k d) {f : RecallContext → RecallContext}
    (g : ∀ c, d.context i = some c → look (f c).members k = look c.members k ∧ look (f c).targets k = look c.targets k) :
    a.Spares i k (d.modContext i f) :=
  h.modWindow fun w hw => ⟨rfl, fun c hc =>
    ⟨f c, by simp [Window.modContext, hc], g c (by simp [context_eq, hw, hc])⟩⟩

theorem Spares.modAgent (h : a.Spares i k d) {j : Agent} (hj : j ≠ k) {f : AgentRecord → AgentRecord}
    (state : (f (d.agent j)).state = (d.agent j).state) : a.Spares i k (d.modAgent j f) := by
  refine h.trans ⟨fun w hw => ⟨w, hw, rfl, fun c hc => ⟨c, hc, rfl, rfl⟩⟩, ?_, fun x => ?_, List.prefix_refl _⟩
  · rw [agent_modAgent, if_neg hj.symm]
  · rw [agent_modAgent]
    split
    · next e => exact e ▸ state
    · rfl

theorem Spares.finish (h : a.Spares i k d) (r : Record) : a.Spares i k (d.finish r) :=
  h.trans ⟨fun w hw => ⟨w, hw, rfl, fun c hc => ⟨c, hc, rfl, rfl⟩⟩, rfl, fun _ => rfl, List.prefix_append _ _⟩

theorem Spares.foldl {α : Type} (h : a.Spares i k d) (f : Directory → α → Directory) (l : List α)
    (g : ∀ e x, x ∈ l → a.Spares i k e → a.Spares i k (f e x)) : a.Spares i k (l.foldl f d) := by
  induction l generalizing d with
  | nil => exact h
  | cons x l ih => exact ih (g d x (by simp) h) fun e y hy => g e y (List.mem_cons_of_mem _ hy)

/-! ### What is done with the other agents (R99, R109) -/

section

variable {j : Agent}

theorem Spares.setHolding (h : a.Spares i k d) (hj : j ≠ k) (x : Holding) : a.Spares i k (d.setHolding i j x) := by
  unfold Directory.setHolding
  split
  · exact h
  · refine Spares.modAgent ?_ hj rfl
    refine h.modWindow fun w _ => ⟨?_, fun c hc => ⟨c, hc, rfl, rfl⟩⟩
    rw [holding_setHolding, if_neg hj.symm]

theorem Spares.setMember (h : a.Spares i k d) (hj : j ≠ k) (m : Membership) :
    a.Spares i k (d.modContext i (·.setMember j m)) :=
  h.modContext fun c _ => ⟨by rw [members_setMember, if_neg hj.symm], rfl⟩

theorem Spares.placeRecall (h : a.Spares i k d) (hj : j ≠ k) : a.Spares i k (d.placeRecall i j) := by
  unfold Directory.placeRecall
  split
  · exact h
  · next l f _ =>
    refine Spares.modContext (h.modAgent hj ?_) fun c _ => ?_
    · exact (sameStanding_of_placed (placeRecall_placed (d.agent j) i l f)).state
    · unfold RecallContext.markNotice
      split
      · exact ⟨by rw [members_setMember, if_neg hj.symm], rfl⟩
      all_goals exact ⟨rfl, rfl⟩

theorem Spares.placeRecallAgain (h : a.Spares i k d) (hj : j ≠ k) : a.Spares i k (d.placeRecallAgain i j) := by
  unfold Directory.placeRecallAgain
  split
  · exact h
  · exact h.placeRecall hj

theorem Spares.revoke (h : a.Spares i k d) (hj : j ≠ k) (force : Bool) : a.Spares i k (d.revoke i j force) := by
  have counted : ∀ (b : AgentRecord) (f : NoticeFields), ((b.placeRevoked i f).countRevocation).state = b.state := fun b f =>
    ((AgentRecord.alike_placeRevoked b i f).trans (AgentRecord.alike_countRevocation _)).state
  unfold Directory.revoke
  split
  · refine Spares.modAgent (Spares.modContext ?_ fun c _ => ?_) hj (counted _ _)
    · split
      · exact (h.setHolding hj _).touch (fun _ => rfl) fun _ => rfl
      · exact h.setHolding hj _
    · exact ⟨by rw [show look _ k = _ from members_setMember c j k .neither, if_neg hj.symm], rfl⟩
  all_goals exact h

theorem Spares.mergeTarget_other (h : a.Spares i k d) (hj : j ≠ k) (now : Tick) (b : Bool) (l : Level) :
    a.Spares i k (d.mergeTarget now b i j l) := by
  unfold Directory.mergeTarget
  split
  · exact h
  · split
    · exact h
    · next c _ =>
      have named : a.Spares i k (d.modContext i (·.setTarget j (some (strengthen (look c.targets j) l)))) :=
        h.modContext fun c _ => ⟨rfl, by rw [targets_setTarget, if_neg hj.symm]⟩
      dsimp only
      split
      · split
        · split
          · exact (named.setMember hj _).placeRecall hj
          · split
            · exact named.revoke hj true
            · exact named.setMember hj _
        · exact named
      · split
        · exact named
        · exact named.placeRecallAgain hj
      · split
        · exact named.revoke hj true
        · exact named

end

end Directory

/-! ### A Blocked agent asked for NONE -/

/-- Agent `k` is asked for NONE in the recall of slot `i`, and has this place and holding there. -/
def Directory.AskedAt (d : Directory) (i : SlotId) (k : Agent) (m : Membership) (h : Holding) : Prop :=
  ∃ w c, d.window i = some w ∧ w.context = some c ∧ look c.members k = m ∧ look c.targets k = some .none ∧ w.holding k = h

namespace Directory

variable {i : SlotId} {k : Agent} {d : Directory} {m : Membership} {h : Holding}

theorem Spares.askedAt {d' : Directory} (g : d.Spares i k d') (asked : d.AskedAt i k m h) : d'.AskedAt i k m h := by
  obtain ⟨w, c, hw, hc, hm, ht, hh⟩ := asked
  obtain ⟨w', hw', holds, places⟩ := g.window w hw
  obtain ⟨c', hc', m', t'⟩ := places c hc
  exact ⟨w', c', hw', hc', m'.trans hm, t'.trans ht, holds.trans hh⟩

/-- No merged target moves an agent that is asked for NONE already, and is Blocked or holds nothing (R99, R100). -/
theorem Spares.mergeTarget {a : Directory} (g : a.Spares i k d) (asked : d.AskedAt i k m h)
    (rests : m = .blocked ∨ m = .neither ∧ h = .none) (now : Tick) (j : Agent) (l : Level) :
    a.Spares i k (d.mergeTarget now false i j l) := by
  by_cases e : j = k
  · subst e
    obtain ⟨w, c, hw, hc, hm, ht, hh⟩ := asked
    have named : a.Spares i j (d.modContext i (·.setTarget j (some (strengthen (look c.targets j) l)))) := by
      refine g.modContext fun x hx => ⟨rfl, ?_⟩
      have same : x = c := by
        rw [context_eq, hw, Option.bind_some, hc] at hx
        exact (Option.some.inj hx).symm
      rw [targets_setTarget, if_pos rfl, same, ht]
      rfl
    unfold Directory.mergeTarget
    rw [hw]
    simp only [hc, hm]
    rcases rests with rfl | ⟨rfl, rfl⟩
    · exact named
    · have low : (w.holding j).above (strengthen (look c.targets j) l) = false := by
        rw [hh, ht]
        rfl
      simp only [low, Bool.false_eq_true, if_false]
      exact named
  · exact g.mergeTarget_other e now false l

theorem Spares.mergeTargets {a : Directory} (g : a.Spares i k d) (asked : a.AskedAt i k m h)
    (rests : m = .blocked ∨ m = .neither ∧ h = .none) (now : Tick) (ts : List (Agent × Level)) :
    a.Spares i k (d.mergeTargets now i ts) :=
  g.foldl _ ts fun _ t _ e => e.mergeTarget (e.askedAt asked) rests now t.1 t.2

theorem member_askedAt (asked : d.AskedAt i k m h) : d.member i k = m := by
  obtain ⟨w, c, hw, hc, hm, _⟩ := asked
  rw [member_of_context hw hc, hm]

/-- The revocation of the Blocked set, of a list of agents that leaves agent `k` alone (R101). -/
theorem Spares.revokeEach {a : Directory} (g : a.Spares i k d) (asked : a.AskedAt i k m h) (l : List Agent)
    (apart : k ∉ l ∨ m = .neither) :
    a.Spares i k (l.foldl (fun d j => if (d.member i j).isBlocked then d.revoke i j true else d) d) := by
  refine g.foldl _ l fun e j hj h => ?_
  split
  · next blocked =>
    refine h.revoke (fun same => ?_) true
    subst same
    rcases apart with apart | rfl
    · exact apart hj
    · rw [member_askedAt (h.askedAt asked)] at blocked
      cases blocked
  · exact h

/-- An agent revoked to NONE is asked for NONE still, and in no set (R109). -/
theorem askedAt_revoke (asked : d.AskedAt i k m h) (held : h ≠ .none) (force : Bool) :
    (d.revoke i k force).AskedAt i k .neither .none := by
  obtain ⟨w, c, hw, hc, hm, ht, rfl⟩ := asked
  have lowered : (w.holding k).lowered .none = .none := by
    rw [Holding.lowered, if_pos (above_none_iff.2 held)]
    rfl
  rw [revoke_eq force hw hc ht, lowered]
  exact ⟨_, c.lifted k, by simp; rfl, rfl, by simp [RecallContext.lifted], ht, by simp [Window.holding]⟩

/-- What comes of the Blocked set's revocation for a DETACHING agent in it: its last holding is gone, counted to its detach. -/
theorem emptied_revokeBlocked {before : Directory} {p : DetachInProgress} (g : before.Spares i k d)
    (asked : d.AskedAt i k .blocked h) (held : h ≠ .none) (detaching : (before.agent k).state = .detaching)
    (detach : (before.agent k).detach = some p) (one : (before.agent k).holdingCount = 1)
    (alone : ∀ j, j ≠ k → (before.agent j).state ≠ .detaching) :
    before.Emptied (d.revokeBlocked i) k { p with forced := p.forced + 1 } ∧
      (d.revokeBlocked i).AskedAt i k .neither .none ∧ ∀ j, j ≠ k → ((d.revokeBlocked i).agent j).state ≠ .detaching := by
  obtain ⟨u, v, split⟩ := List.append_of_mem (List.mem_finRange k)
  have once : (u ++ k :: v).Nodup := split ▸ List.nodup_finRange 8
  have notIn : k ∉ u ∧ k ∉ v := by
    rw [List.nodup_append] at once
    exact ⟨fun hk => once.2.2 k hk k (by simp) rfl, (List.nodup_cons.1 once.2.1).1⟩
  obtain ⟨e, he⟩ : ∃ e, e = u.foldl (fun d j => if (d.member i j).isBlocked then d.revoke i j true else d) d := ⟨_, rfl⟩
  have first : d.Spares i k e := he ▸ (Spares.refl i k d).revokeEach asked u (.inl notIn.1)
  have reached := g.trans first
  have caught := first.askedAt asked
  have fallen := askedAt_revoke caught held true
  have rest := (Spares.refl i k (e.revoke i k true)).revokeEach fallen v (.inl notIn.2)
  have whole : d.revokeBlocked i =
      v.foldl (fun d j => if (d.member i j).isBlocked then d.revoke i j true else d) (e.revoke i k true) := by
    have blocked : (e.member i k).isBlocked = true := by rw [member_askedAt caught]; rfl
    rw [Directory.revokeBlocked, show allAgents = u ++ k :: v from split, List.foldl_append, List.foldl_cons, ← he, if_pos blocked]
  rw [whole]
  obtain ⟨w, c, hw, hc, hm, ht, rfl⟩ := caught
  have others : ∀ j, j ≠ k → ((v.foldl (fun d j => if (d.member i j).isBlocked then d.revoke i j true else d)
      (e.revoke i k true)).agent j).state ≠ .detaching := fun j hj => by
    rw [rest.states, revoke_eq true hw hc ht, agent_withAgent, if_neg hj, agent_withWindow, reached.states j]
    exact alone j hj
  obtain ⟨revoked, _⟩ := emptied_revoked (p := p) true hw hc ht held (by rw [reached.agent]; exact detaching)
    (by rw [reached.agent]; exact detach) (by rw [reached.agent]; exact one)
  refine ⟨⟨?_, ?_, ?_, ?_, fun j hj hd => absurd hd (others j hj), ?_⟩, rest.askedAt fallen, others⟩
  · rw [rest.agent, revoked.state]
  · rw [rest.agent, revoked.settings, reached.agent]
  · rw [rest.agent, revoked.count]
  · rw [rest.agent, revoked.detach]
  · exact reached.completions.trans (revoked.completions.trans rest.completions)

/-- An emptied agent stays so while the others are asked. -/
theorem Emptied.spares {before d' : Directory} {p : DetachInProgress} (e : before.Emptied d k p) (g : d.Spares i k d')
    (alone : ∀ j, j ≠ k → (d.agent j).state ≠ .detaching) : before.Emptied d' k p where
  state := by rw [g.agent, e.state]
  settings := by rw [g.agent, e.settings]
  count := by rw [g.agent, e.count]
  detach := by rw [g.agent, e.detach]
  others j hj hd := absurd ((g.states j).symm.trans hd) (alone j hj)
  completions := e.completions.trans g.completions

end Directory

end Sys2Proof.Machine
end

section
/-! SUPPORT. A forced REVISE or RETIRE that completes a parked detach (R125, R135, R160, R161; log 10, log 11, log 12). -/

namespace Sys2Proof.Machine

open Sys2Proof.Safety

variable {d : Directory} {i : SlotId} {w : Window} {c : RecallContext} {k : Agent} {p : DetachInProgress}

/-! ### Up to the completion check -/

/-- The agent is DETACHING with one holding left, Blocked by the recall of slot `i` that asks it for NONE, and no other agent is
DETACHING. -/
structure LastBlocked (d : Directory) (i : SlotId) (w : Window) (c : RecallContext) (k : Agent) (p : DetachInProgress) : Prop where
  window : d.window i = some w
  context : w.context = some c
  blocked : look c.members k = .blocked
  target : look c.targets k = some .none
  held : w.holding k ≠ .none
  state : (d.agent k).state = .detaching
  detach : (d.agent k).detach = some p
  one : (d.agent k).holdingCount = 1
  alone : ∀ j, j ≠ k → (d.agent j).state ≠ .detaching

theorem LastBlocked.counted (h : LastBlocked d i w c k p) : (d.agent k).holdingCount ≠ 0 := by simp [h.one]

theorem LastBlocked.askedAt (h : LastBlocked d i w c k p) : d.AskedAt i k .blocked (w.holding k) :=
  ⟨w, c, h.window, h.context, h.blocked, h.target, rfl⟩

theorem Directory.Spares.setForce {a : Directory} (h : a.Spares i k d) (b : Bool) : a.Spares i k (d.setForce i b) :=
  h.modContext fun _ _ => ⟨rfl, rfl⟩

/-- Force turned on leaves an agent alone that is in neither set (R101). -/
theorem Directory.Spares.turnForceOn {a : Directory} {h : Holding} (g : a.Spares i k d) (asked : a.AskedAt i k .neither h) :
    a.Spares i k (d.turnForceOn i) := (g.setForce true).revokeEach asked allAgents (.inr rfl)

/-- Force turns on and revokes the agent (R95, R101). -/
theorem LastBlocked.turnForceOn {e : Directory} (h : LastBlocked d i w c k p) (g : d.Spares i k e) :
    d.Emptied (e.turnForceOn i) k { p with forced := p.forced + 1 } ∧ (e.turnForceOn i).AskedAt i k .neither .none ∧
      ∀ j, j ≠ k → ((e.turnForceOn i).agent j).state ≠ .detaching :=
  Directory.emptied_revokeBlocked (g.setForce true) ((g.setForce true).askedAt h.askedAt) h.held h.state h.detach h.one h.alone

/-- REVISION joins with force: the agent is revoked first, and the targets do not bring it back (R125). -/
theorem LastBlocked.joinRevision {e : Directory} (h : LastBlocked d i w c k p) (g : d.Spares i k e) (now : Tick)
    (ts : List (Agent × Level)) : d.Emptied (e.joinRevision now i true ts) k { p with forced := p.forced + 1 } := by
  obtain ⟨emptied, fallen, alone⟩ := h.turnForceOn (e := e.addCause i .revision) (g.modContext fun _ _ => ⟨rfl, rfl⟩)
  have merged := (Directory.Spares.refl i k _).mergeTargets fallen (.inr ⟨rfl, rfl⟩) now ts
  have join : e.joinRevision now i true ts =
      (((e.addCause i .revision).turnForceOn i).mergeTargets now i ts).turnForceOn i := by
    simp only [Directory.joinRevision, if_true]
  rw [join]
  exact emptied.spares (merged.turnForceOn fallen) alone

/-- RETIRE joins with force: the agent stays Blocked while the targets are merged, and is revoked then (R135; log 12). -/
theorem LastBlocked.joinRetire {e : Directory} (h : LastBlocked d i w c k p) (g : d.Spares i k e) (now : Tick)
    (ts : List (Agent × Level)) :
    d.Emptied (((e.addCause i .retire).mergeTargets now i ts).turnForceOn i) k { p with forced := p.forced + 1 } := by
  have joined : d.Spares i k (e.addCause i .retire) := g.modContext fun _ _ => ⟨rfl, rfl⟩
  exact (h.turnForceOn (joined.mergeTargets h.askedAt (.inl rfl) now ts)).1

/-! ### REVISE -/

theorem handleField_eq (w : Word) : handleField w = w.extractLsb' 0 16 := rfl

/-- A REVISE that passes its checks is accepted (R121). -/
theorem revise_of_passes {s : State} {e : Entry} {rest : List Entry} (h : RevisePasses s e rest i w) :
    s.directory.revise s.clock e = s.directory.acceptRevise s.clock i w e (SuppliedFields.ofParams e.params).fieldSet
      (forceField (e.param 5)) := by
  have named : s.directory.checkHandle (handleField (e.param 5)) = some i := checkHandle_of_names h.names
  have clear : s.directory.overlapFound (some i) (SuppliedFields.ofParams e.params).fieldSet = false :=
    overlapFound_eq_false_iff.2 fun j hj v hv => meets_eq_false_iff.2 (h.clear j (fun e => hj (congrArg some e.symm)) v hv)
  have calm : w.state ≠ .retiring ∧ w.state ≠ .revising := by
    rcases h.calm with e | e <;> rw [e] <;> exact ⟨nofun, nofun⟩
  simp only [Directory.revise, named, h.names.1, if_neg calm.1, if_neg calm.2, fault_of_sound h.fields, clear,
    Bool.false_eq_true, if_false]

/-- The checks, the join and the end of the event. -/
theorem LastBlocked.revise {s : State} {e : Entry} {rest : List Entry} (h : LastBlocked s.directory i w c k p)
    (passes : RevisePasses s e rest i w) (force : (look e.params 5).getLsbD 16 = true) :
    ∃ d, exec .revise s = .next (taken s rest d) ∧ DetachEnded s.directory d k p (p.forced + 1) := by
  refine ⟨_, congrArg _ (takeCommand_of_command passes.command), ?_⟩
  have forced : forceField (e.param 5) = true := force
  rw [revise_of_passes passes, forced, Directory.acceptRevise, h.context, Option.isNone_some, Bool.false_and,
    if_neg Bool.false_ne_true, Directory.reviseLater]
  have staged : s.directory.Spares i k (s.directory.stage i
      { fields := (SuppliedFields.ofParams e.params).fieldSet, force := true, tag := e.tag }) :=
    (Directory.Spares.refl i k _).touch (fun _ => rfl) fun _ => rfl
  have runs : ((s.directory.stage i
      { fields := (SuppliedFields.ofParams e.params).fieldSet, force := true, tag := e.tag }).context i).isSome = true := by
    rw [context_stage, context_eq, h.window, Option.bind_some, h.context]
    rfl
  have checked := (h.joinRevision staged s.clock (w.affected (SuppliedFields.ofParams e.params).fieldSet)).steady
    ((Directory.Steady.refl _).checkCompletion s.clock i)
  rw [Directory.handOverRevision, if_pos runs]
  refine Directory.Emptied.settle (p := { p with forced := p.forced + 1 }) ?_ s.clock h.counted rfl
  split
  · exact checked.steady ((Directory.Steady.refl _).park _)
  · exact checked

/-! ### RETIRE -/

theorem Directory.Spares.supersede {a : Directory} (h : a.Spares i k d) (b : Bool) : a.Spares i k (d.supersede i b) := by
  unfold Directory.supersede
  split
  · exact h
  · dsimp only
    refine Directory.Spares.finish ?_ _
    refine h.modWindow fun w _ => ⟨rfl, fun c hc => ⟨{ c with revision := false, retire := true, force := b }, ?_, rfl, rfl⟩⟩
    simp [Window.modContext, hc]

/-- A RETIRE of a window that its handle names, and that is not RETIRING, is accepted (R132). -/
theorem retire_of_names {e : Entry} (names : Names d ((look e.params 0).extractLsb' 0 16) i w) (calm : w.state ≠ .retiring)
    (now : Tick) : d.retire now e = d.acceptRetire now i e (forceField (e.param 0)) := by
  have named : d.checkHandle (handleField (e.param 0)) = some i := checkHandle_of_names names
  have state : (look d.slots i).state ≠ .retiring := by
    have : (look d.slots i).window = some w := names.1
    rw [Slot.state, this]
    exact calm
  simp only [Directory.retire, named, if_neg state]

/-- The checks, the join and the end of the event. -/
theorem LastBlocked.retire {s : State} {e : Entry} {rest : List Entry} (h : LastBlocked s.directory i w c k p)
    (command : Command s .retire e rest) (names : Names s.directory ((look e.params 0).extractLsb' 0 16) i w)
    (calm : w.state ≠ .retiring) (force : (look e.params 0).getLsbD 16 = true) :
    ∃ d, exec .retire s = .next (taken s rest d) ∧ DetachEnded s.directory d k p (p.forced + 1) := by
  refine ⟨_, congrArg _ (takeCommand_of_command command), ?_⟩
  have forced : forceField (e.param 0) = true := force
  rw [retire_of_names names calm, forced, Directory.acceptRetire]
  have emptied : s.directory.Spares i k ((s.directory.supersede i true).emptyForRetire i e.tag) :=
    ((Directory.Spares.refl i k _).supersede true).touch (fun _ => rfl) fun _ => rfl
  obtain ⟨v, x, hv, hx, _⟩ := emptied.askedAt h.askedAt
  have handed : ((s.directory.supersede i true).emptyForRetire i e.tag).handOverRetire s.clock i true =
      (((((s.directory.supersede i true).emptyForRetire i e.tag).addCause i .retire).mergeTargets s.clock i
        v.allHolders).turnForceOn i).checkCompletion s.clock i := by
    simp only [Directory.handOverRetire, hv, hx, Option.isSome_some, if_true]
  have checked := (h.joinRetire emptied s.clock v.allHolders).steady ((Directory.Steady.refl _).checkCompletion s.clock i)
  rw [handed]
  refine Directory.Emptied.settle (p := { p with forced := p.forced + 1 }) ?_ s.clock h.counted rfl
  split
  · exact checked.steady ((Directory.Steady.refl _).park _)
  · exact checked

/-! ### The four ends of a parked detach -/

/-- A parked detach completes in the event that takes its agent's last holding (R160, R161). -/
theorem parkedDetachEnds (s : State) (k : Agent) (p : DetachInProgress) (detaching : (s.directory.agent k).state = .detaching)
    (detach : (s.directory.agent k).detach = some p) (one : (s.directory.agent k).holdingCount = 1) :
    (∀ r i w, Found s k r .release i w → r.level = 0 → w.holding k ≠ .none →
      ∃ d, exec .release s = .next (answered s k (granted w (slotHandle s.directory i) .none r.address) d) ∧
        DetachEnded s.directory d k p p.forced) ∧
    (∀ i w c x, Passing s i k w c x .none → ¬ x.retriesUsed < (s.directory.agent k).settings.retries.toNat →
      BelowThreshold (s.directory.agent k) 4 →
      ∃ d, exec (.recallDeadline i k) s = .next { s with directory := d } ∧
        DetachEnded s.directory d k p (p.forced + 1)) ∧
    ∀ e rest i w c, w.context = some c → look c.members k = .blocked → look c.targets k = some .none →
      w.holding k ≠ .none → (∀ j, j ≠ k → (s.directory.agent j).state ≠ .detaching) →
      (RevisePasses s e rest i w → (look e.params 5).getLsbD 16 = true →
        ∃ d, exec .revise s = .next (taken s rest d) ∧ DetachEnded s.directory d k p (p.forced + 1)) ∧
      (Command s .retire e rest → Names s.directory ((look e.params 0).extractLsb' 0 16) i w → w.state ≠ .retiring →
        (look e.params 0).getLsbD 16 = true →
        ∃ d, exec .retire s = .next (taken s rest d) ∧ DetachEnded s.directory d k p (p.forced + 1)) := by
  refine ⟨fun r i w h level held => release_endsDetach h level held detaching detach one,
    fun i w c x h used below => deadline_endsDetach h used below detaching detach one,
    fun e rest i w c hc hm ht held alone => ?_⟩
  have last := fun (hw : s.directory.window i = some w) =>
    LastBlocked.mk (p := p) hw hc hm ht held detaching detach one alone
  exact ⟨fun passes force => (last passes.names.1).revise passes force,
    fun command names calm force => (last names.1).retire command names calm force⟩

end Sys2Proof.Machine
end

section
/-! SUPPORT. An update beside a slot: one that leaves the slot's window and some agents' records alone may be made before or after
head service there (R84, R86, R87). -/

namespace Sys2Proof.Machine

open Sys2Proof.Safety

/-- The update `U` leaves the window of slot `i` and the records of the agents in `J` alone, and does not depend on them. -/
structure Directory.Aside (i : SlotId) (J : Agent → Prop) (U : Directory → Directory) : Prop where
  window : ∀ d, (U d).window i = d.window i
  handle : ∀ d, (U d).handle i = d.handle i
  agent : ∀ d j, J j → (U d).agent j = d.agent j
  modWindow : ∀ d f, (U d).modWindow i f = U (d.modWindow i f)
  modAgent : ∀ d j f, J j → (U d).modAgent j f = U (d.modAgent j f)

namespace Directory

/-- Updates of two slots may change places. -/
theorem modWindow_comm {i j : SlotId} (h : j ≠ i) (d : Directory) (f g : Window → Window) :
    (d.modWindow j g).modWindow i f = (d.modWindow i f).modWindow j g := by
  have same : ((d.modWindow j g).modWindow i f).slots = ((d.modWindow i f).modWindow j g).slots := by
    refine slots_ext (fun x => by simp) fun x => ?_
    by_cases e : x = i
    · subst e
      simp [h.symm]
    · simp [e]
  exact congrArg (fun t => { d with slots := t }) same

/-- Updates of two records may change places. -/
theorem modAgent_comm {j k : Agent} (h : j ≠ k) (d : Directory) (f g : AgentRecord → AgentRecord) :
    (d.modAgent k g).modAgent j f = (d.modAgent j f).modAgent k g := by
  have same : ((d.modAgent k g).modAgent j f).agents = ((d.modAgent j f).modAgent k g).agents := by
    refine table_ext fun x => ?_
    show ((d.modAgent k g).modAgent j f).agent x = ((d.modAgent j f).modAgent k g).agent x
    by_cases e : x = j
    · subst e
      simp [h]
    · simp [e]
  exact congrArg (fun t => { d with agents := t }) same

theorem aside_modWindow {i j : SlotId} (h : j ≠ i) (g : Window → Window) : Aside i (fun _ => True) (·.modWindow j g) where
  window d := by simp [h.symm]
  handle d := by simp
  agent _ _ _ := rfl
  modWindow d f := modWindow_comm h d f g
  modAgent _ _ _ _ := rfl

theorem aside_modAgent (i : SlotId) (k : Agent) (g : AgentRecord → AgentRecord) : Aside i (· ≠ k) (·.modAgent k g) where
  window _ := rfl
  handle _ := rfl
  agent d j hj := by simp [hj]
  modWindow _ _ := rfl
  modAgent d j f hj := modAgent_comm hj d f g

section
variable {i : SlotId} {J : Agent → Prop} {U : Directory → Directory} {j : Agent}

theorem Aside.context (h : Aside i J U) (d : Directory) : (U d).context i = d.context i := by
  rw [context_eq, context_eq, h.window]

theorem Aside.modContext (h : Aside i J U) (d : Directory) (f : RecallContext → RecallContext) :
    (U d).modContext i f = U (d.modContext i f) := h.modWindow d _

theorem Aside.recallOf (h : Aside i J U) (d : Directory) (j : Agent) : (U d).recallOf i j = d.recallOf i j := by
  unfold Directory.recallOf
  rw [h.window]
  cases d.window i with
  | none => rfl
  | some w => simp only [Directory.noticeFields, h.handle]

theorem Aside.unsent (h : Aside i J U) (d : Directory) (j : Agent) : (U d).unsent i j = d.unsent i j := by
  rw [Directory.unsent, Directory.member, h.context, Directory.unsent, Directory.member]

theorem Aside.placeRecall (h : Aside i J U) (hj : J j) (d : Directory) : (U d).placeRecall i j = U (d.placeRecall i j) := by
  unfold Directory.placeRecall
  rw [h.recallOf]
  split
  · rfl
  · dsimp only
    rw [h.agent d j hj, h.modAgent d j _ hj, Directory.markNotice, h.modContext]
    rfl

theorem Aside.placeRecallAgain (h : Aside i J U) (hj : J j) (d : Directory) :
    (U d).placeRecallAgain i j = U (d.placeRecallAgain i j) := by
  unfold Directory.placeRecallAgain
  rw [h.unsent, h.placeRecall hj]
  split <;> rfl

theorem Aside.enterOutstanding (h : Aside i J U) (hj : J j) (now : Tick) (d : Directory) :
    (U d).enterOutstanding now i j = U (d.enterOutstanding now i j) := by
  unfold Directory.enterOutstanding
  dsimp only
  rw [h.agent d j hj, h.modContext, h.placeRecall hj]

theorem Aside.setHolding (h : Aside i J U) (hj : J j) (x : Holding) (d : Directory) :
    (U d).setHolding i j x = U (d.setHolding i j x) := by
  unfold Directory.setHolding
  rw [h.window]
  split
  · rfl
  · rw [h.modWindow, h.modAgent _ j _ hj]

theorem Aside.revoke (h : Aside i J U) (hj : J j) (force : Bool) (d : Directory) :
    (U d).revoke i j force = U (d.revoke i j force) := by
  have pins : ∀ x : Directory, (U x).setPins i j 0 = U (x.setPins i j 0) := fun x => h.modWindow x _
  unfold Directory.revoke
  rw [h.window, h.recallOf]
  split
  · dsimp only
    rw [h.setHolding hj, pins, ← apply_ite U, h.modContext, h.modAgent _ j _ hj]
  all_goals rfl

theorem Aside.mergeTarget (h : Aside i J U) (hj : J j) (now : Tick) (b : Bool) (l : Level) (d : Directory) :
    (U d).mergeTarget now b i j l = U (d.mergeTarget now b i j l) := by
  unfold Directory.mergeTarget
  rw [h.window]
  split
  · rfl
  · split
    · rfl
    · dsimp only
      simp only [h.modContext, h.enterOutstanding hj, h.revoke hj, h.placeRecallAgain hj, ← apply_ite U]
      split <;> rfl

theorem Aside.mergeTargets (h : Aside i J U) (now : Tick) (ts : List (Agent × Level)) (hts : ∀ t ∈ ts, J t.1)
    (d : Directory) : (U d).mergeTargets now i ts = U (d.mergeTargets now i ts) := by
  induction ts generalizing d with
  | nil => rfl
  | cons t ts ih =>
    show ((U d).mergeTarget now false i t.1 t.2).mergeTargets now i ts = _
    rw [h.mergeTarget (hts t List.mem_cons_self), ih fun x hx => hts x (List.mem_cons_of_mem _ hx)]
    rfl

theorem Aside.startRecall (h : Aside i J U) (now : Tick) (cause : Cause) (force : Bool) (ts : List (Agent × Level))
    (hts : ∀ t ∈ ts, J t.1) (d : Directory) :
    (U d).startRecall now i cause force ts = U (d.startRecall now i cause force ts) := by
  unfold Directory.startRecall Directory.createContext
  rw [h.modWindow, h.mergeTargets now ts hts]

/-- Head service reads the records of the agents that wait or hold in its window alone. -/
theorem Aside.headService (h : Aside i J U) (now : Tick) {d : Directory}
    (waits : ∀ w, d.window i = some w → ∀ x ∈ w.waiters, J x.agent)
    (holds : ∀ w, d.window i = some w → ∀ j, w.holding j ≠ .none → J j) :
    (U d).headService now i = U (d.headService now i) := by
  have hw' := h.window d
  cases hw : d.window i with
  | none =>
    rw [hw] at hw'
    rw [Directory.headService, hw', Directory.headService, hw]
  | some w =>
    rw [hw] at hw'
    have set : ∀ v : Window, withWindow (U d) i v = U (withWindow d i v) := fun v => by
      rw [← modWindow_eq_withWindow (fun _ => v) hw', ← modWindow_eq_withWindow (fun _ => v) hw, h.modWindow]
    by_cases run : w.context ≠ none ∨ w.reservation ≠ none
    · rw [headService_idle hw run, headService_idle hw' run]
    · push Not at run
      obtain ⟨hc, hr⟩ := run
      cases hs : w.servable with
      | nil => rw [headService_none hw hc hr hs, headService_none hw' hc hr hs, set]
      | cons x rest =>
        have served : J x.agent :=
          waits w hw x ((List.dropWhile_suffix _).subset (show x ∈ w.servable from hs ▸ List.mem_cons_self))
        have asked : ∀ t ∈ w.conflicts x.agent (x.wanted.decided w.fields.cacheable), J t.1 := fun t ht =>
          holds w hw t.1 (ne_none_of_above (lowering_above ((mem_conflicts_iff_lowering t.1 t.2).1 ht)))
        rw [headService_some hw hc hr hs, headService_some hw' hc hr hs, h.agent d _ served, set, set,
          h.startRecall now _ _ _ asked, ← apply_ite U]

end

end Directory

end Sys2Proof.Machine
end

section
/-! SUPPORT. AGENT_DETACH leaves every waiter list (R84; R157, step 2): all the lists first, and then head service where the agent was
the head of an OPEN window. -/

namespace Sys2Proof.Machine

open Sys2Proof.Safety

/-- The window without agent `k` on its waiter list, and without the reservation it held there (R84). -/
def Window.delist (w : Window) (k : Agent) : Window := if w.listed k then (w.unlist k).unreserve k else w

def Directory.delist (d : Directory) (k : Agent) (i : SlotId) : Directory := d.modWindow i (·.delist k)

/-- Agent `k` is the head of the waiter list of slot `i`'s window, which is OPEN. -/
def Directory.heads (d : Directory) (k : Agent) (i : SlotId) : Bool := (d.window i).any (·.openHead k)

theorem listed_of_openHead {w : Window} {k : Agent} (h : w.openHead k = true) : w.listed k = true := by
  obtain ⟨_, head⟩ := Bool.and_eq_true_iff.1 h
  obtain ⟨x, hx, e⟩ := Option.map_eq_some_iff.1 (beq_iff_eq.1 head)
  exact listed_iff.2 ⟨x, List.mem_of_mem_head? hx, e⟩

namespace Directory

variable {now : Tick} {k : Agent} {i j : SlotId} {d : Directory}

theorem leaveWaiters_eq (d : Directory) (now : Tick) (k : Agent) (i : SlotId) :
    d.leaveWaiters now k i = if d.heads k i then (d.delist k i).headService now i else d.delist k i := by
  unfold Directory.leaveWaiters Directory.heads Directory.delist
  cases hw : d.window i with
  | none => rw [modWindow_eq_self (by rw [hw]; rfl)]; rfl
  | some w =>
    by_cases listed : w.listed k
    · have same : d.unlist i k = d.modWindow i (·.delist k) := by
        rw [Directory.unlist, modWindow_eq_withWindow _ hw, modWindow_eq_withWindow _ hw, Window.delist, if_pos listed]
      simp only [listed, if_true, same, Option.any_some]
    · have behind : w.openHead k = false := by
        by_contra g
        exact listed (listed_of_openHead (by simpa using g))
      have same : d.modWindow i (·.delist k) = d := by
        rw [modWindow_eq_withWindow _ hw, Window.delist, if_neg listed]
        exact withWindow_self hw
      simp [listed, behind, same]

/-- Head service changes its window alone, or starts a recall there (R87). -/
theorem headService_cases (now : Tick) (i : SlotId) (d : Directory) :
    d.headService now i = d ∨ (∃ v, d.headService now i = withWindow d i v) ∨
      ∃ v j kind, d.headService now i = (withWindow d i v).startRecall now i .waiter false (v.conflicts j kind) := by
  cases hw : d.window i with
  | none => exact .inl (by rw [Directory.headService, hw])
  | some w =>
    by_cases run : w.context ≠ none ∨ w.reservation ≠ none
    · exact .inl (headService_idle hw run)
    · push Not at run
      obtain ⟨hc, hr⟩ := run
      cases hs : w.servable with
      | nil => exact .inr (.inl ⟨_, headService_none hw hc hr hs⟩)
      | cons x rest =>
        rw [headService_some hw hc hr hs]
        split
        · exact .inr (.inl ⟨_, rfl⟩)
        · exact .inr (.inr ⟨{ w with waiters := x :: rest }, _, _, rfl⟩)

/-- Head service touches no other window, and parks nothing. -/
theorem headService_other (now : Tick) (i : SlotId) (d : Directory) :
    (∀ j, j ≠ i → (d.headService now i).window j = d.window j) ∧ (d.headService now i).parked = d.parked := by
  obtain e | ⟨v, e⟩ | ⟨v, k, kind, e⟩ := headService_cases now i d
  · rw [e]
    exact ⟨fun _ _ => rfl, rfl⟩
  · rw [e]
    exact ⟨fun j hj => by rw [window_withWindow, if_neg hj], rfl⟩
  · obtain ⟨⟨_, _, others, _⟩, parked, _⟩ :=
      startRecall_waiter (d := withWindow d i v) (now := now) (i := i) (w := v) (k := k) (kind := kind) (by simp)
    rw [e]
    exact ⟨fun j hj => (congrArg Slot.window (others j hj)).trans ((window_withWindow d i j v).trans (if_neg hj)), parked⟩

theorem window_headService_other (now : Tick) (h : j ≠ i) (d : Directory) : (d.headService now i).window j = d.window j :=
  (headService_other now i d).1 j h

theorem delist_headService (now : Tick) (h : j ≠ i) (d : Directory) :
    (d.headService now i).delist k j = (d.delist k j).headService now i :=
  ((aside_modWindow h (·.delist k)).headService now (fun _ _ _ _ => trivial) fun _ _ _ _ => trivial).symm

theorem delists_headService (now : Tick) (k : Agent) {l : List SlotId} (h : i ∉ l) (d : Directory) :
    l.foldl (·.delist k) (d.headService now i) = (l.foldl (·.delist k) d).headService now i := by
  induction l generalizing d with
  | nil => rfl
  | cons j l ih =>
    obtain ⟨hj, hl⟩ := not_or.1 (h ∘ List.mem_cons.2)
    rw [List.foldl_cons, List.foldl_cons, delist_headService now (Ne.symm hj), ih hl]

/-- The lists may all be left before any head is served. -/
theorem leaveWaiters_foldl (now : Tick) (k : Agent) {l : List SlotId} (h : l.Nodup) (d : Directory) :
    l.foldl (fun d i => d.leaveWaiters now k i) d =
      (l.filter (d.heads k)).foldl (fun d i => d.headService now i) (l.foldl (·.delist k) d) := by
  induction l generalizing d with
  | nil => rfl
  | cons i l ih =>
    obtain ⟨hi, hl⟩ := List.nodup_cons.1 h
    have others : ∀ j ∈ l, (d.leaveWaiters now k i).window j = d.window j := fun j hj => by
      have apart : j ≠ i := fun e => hi (e ▸ hj)
      have left : (d.delist k i).window j = d.window j := by rw [delist, window_modWindow, if_neg apart]
      rw [leaveWaiters_eq]
      split
      · rw [window_headService_other now apart, left]
      · exact left
    have same : l.filter ((d.leaveWaiters now k i).heads k) = l.filter (d.heads k) :=
      List.filter_congr fun j hj => by rw [heads, heads, others j hj]
    rw [List.foldl_cons, ih hl, same, leaveWaiters_eq, List.filter_cons, List.foldl_cons]
    split
    · rw [delists_headService now k hi, List.foldl_cons]
    · rfl

theorem nodup_liveSlots (d : Directory) : d.liveSlots.Nodup := (List.nodup_finRange 128).filter _

/-- What leaving the lists of some slots does, window by window. -/
theorem window_delists (k : Agent) {l : List SlotId} (h : l.Nodup) (d : Directory) (j : SlotId) :
    (l.foldl (·.delist k) d).window j = if j ∈ l then (d.window j).map (·.delist k) else d.window j := by
  induction l generalizing d with
  | nil => rfl
  | cons i l ih =>
    obtain ⟨hi, hl⟩ := List.nodup_cons.1 h
    rw [List.foldl_cons, ih hl, delist, window_modWindow]
    by_cases e : j = i
    · subst e
      simp [hi]
    · simp [e]

/-- Nothing but windows changes. -/
theorem delists_eq (k : Agent) (l : List SlotId) (d : Directory) :
    (∃ slots, l.foldl (·.delist k) d = { d with slots := slots }) ∧
      ∀ j, (look (l.foldl (·.delist k) d).slots j).generation = (look d.slots j).generation := by
  induction l generalizing d with
  | nil => exact ⟨⟨d.slots, rfl⟩, fun _ => rfl⟩
  | cons i l ih =>
    obtain ⟨⟨slots, e⟩, generations⟩ := ih (d.delist k i)
    exact ⟨⟨slots, e⟩, fun j => (generations j).trans (generation_modWindow d i j _)⟩

theorem delist_liveSlots (d : Directory) (k : Agent) : d.liveSlots.foldl (·.delist k) d = withoutWaiter d k := by
  obtain ⟨⟨slots, e⟩, generations⟩ := delists_eq k d.liveSlots d
  have windows : ∀ j, (d.liveSlots.foldl (·.delist k) d).window j = (withoutWaiter d k).window j := fun j => by
    have without : (withoutWaiter d k).window j = (d.window j).map (·.delist k) := by
      simp only [withoutWaiter, Directory.window, look_map, ← listed_iff]
      rfl
    rw [window_delists k (nodup_liveSlots d), without]
    split
    · rfl
    · next h => rw [show d.window j = none from by simpa [mem_liveSlots] using h]; rfl
  have same := slots_ext (d := d.liveSlots.foldl (·.delist k) d) (d' := withoutWaiter d k)
    (fun j => (generations j).trans (by simp [withoutWaiter])) windows
  rw [e] at same ⊢
  exact congrArg (fun t => { d with slots := t }) same

theorem filter_heads (d : Directory) (k : Agent) : d.liveSlots.filter (d.heads k) = openHeads d k := by
  rw [Directory.liveSlots, List.filter_filter, openHeads]
  refine List.filter_congr fun i _ => ?_
  unfold Directory.heads Window.openHead
  cases d.window i with
  | none => rfl
  | some w => cases hc : w.context <;> simp [hc, beq_eq_decide]

/-- All the lists left, in the statement's words. -/
theorem leaveWaiters_liveSlots (d : Directory) (now : Tick) (k : Agent) :
    d.liveSlots.foldl (fun d i => d.leaveWaiters now k i) d = leftLists d now k := by
  rw [leaveWaiters_foldl now k (nodup_liveSlots d), delist_liveSlots, filter_heads]
  rfl

end Directory

end Sys2Proof.Machine
end

section
/-! SUPPORT. Cause DETACH asks one agent for NONE in a window where it holds (R99, R100, R101, R109, R110, R158): the one cell of the
window, the one record and the forced count that it rewrites. -/

namespace Sys2Proof.Machine

open Sys2Proof.Safety

variable {d : Directory} {i : SlotId} {v : Window} {c : RecallContext} {k : Agent}

theorem handleSlot_handleOf (g : BitVec 8) (i : SlotId) : handleSlot (handleOf g i).toNat = i := by
  apply Fin.ext
  simp only [handleOf, handleSlot, BitVec.toNat_ofNat]
  omega

theorem slot_noticeFields (d : Directory) (i : SlotId) (w : Window) : (d.noticeFields i w).slot = i := handleSlot_handleOf _ i

theorem toNat_raised_one (x : BitVec 8) : (raised x 1).toNat = min 255 (x.toNat + 1) := by
  simp only [raised, BitVec.toNat_ofNat]
  omega

theorem toNat_eq_min (x : BitVec 8) : x.toNat = min 255 (x.toNat + 0) := by
  have := x.isLt
  omega

/-- Placing a REVOKED rewrites queue and backlog alone, from these two (R37). -/
theorem placeRevoked_eq (a : AgentRecord) (i : SlotId) (f : NoticeFields) :
    a.placeRevoked i f =
      { a with
        notices :=
          if a.notices.any (·.slot == i) then a.notices.map fun m => if m.slot = i then { kind := .revoked, fields := f } else m
          else if a.notices.length < Config.noticePlaces then a.notices ++ [{ kind := .revoked, fields := f }] else a.notices
        backlog :=
          if a.notices.any (·.slot == i) ∨ a.notices.length < Config.noticePlaces then a.backlog
          else insertBacklog f a.backlog } := by
  unfold AgentRecord.placeRevoked AgentRecord.queued AgentRecord.hasRoom
  by_cases queued : a.notices.any (·.slot == i) = true
  · simp only [queued, if_true, true_or]
    rfl
  · by_cases room : a.notices.length < Config.noticePlaces
    · simp only [queued, room, if_true, decide_true, or_true]
      rfl
    · simp only [queued, room, if_false, decide_false, or_false, Bool.false_eq_true]

/-- The record after a revocation to NONE, its REVOKED placed last (R109, R160). -/
theorem revoked_eq (a : AgentRecord) (i : SlotId) (f : NoticeFields) {h : Holding} (held : h ≠ .none) :
    a.revoked i f h .none = (revokedRecord a .none).placeRevoked i f := by
  rw [AgentRecord.revoked, countAfter_lost held, placeRevoked_eq, placeRevoked_eq, AgentRecord.countRevocation, revokedRecord]
  by_cases detaching : a.state = .detaching
  · simp only [detaching, if_true]
  · simp only [detaching, if_true, if_false]

/-! ### What merging does to the cell -/

section
variable (d i v c k)

/-- Slot `i` with the context `c`. -/
def Directory.recalledIn : Directory := withWindow d i { v with context := some c }

/-- Slot `i` with the context `c`, and agent `k`'s cell rewritten to a target NONE; its record too. -/
def Directory.asked (h : Holding) (n : BitVec 4) (m : Membership) (forced : BitVec 8) (a : AgentRecord) : Directory :=
  withAgent (withWindow d i (v.withCell c k h (put v.pins k n) .none m forced)) k a

end

/-- A cell whose holding and pins stay as they are. -/
theorem asked_kept (d : Directory) (i : SlotId) (v : Window) (c : RecallContext) (k : Agent) (m : Membership)
    (forced : BitVec 8) (a : AgentRecord) :
    d.asked i v c k (v.holding k) (v.pinCount k) m forced a =
      withAgent (d.recalledIn i v (c.withCell k .none m forced)) k a := by
  have holdings : put v.holdings k (v.holding k) = v.holdings := put_look _ _
  have pins : put v.pins k (v.pinCount k) = v.pins := put_look _ _
  rw [Directory.asked, Window.withCell, holdings, pins]
  rfl

theorem strengthen_none (p : Option Level) : strengthen p .none = .none := by cases p with
  | none => rfl
  | some l => cases l <;> rfl

theorem window_recalledIn : (d.recalledIn i v c).window i = some { v with context := some c } := by
  simp [Directory.recalledIn]

/-- The target alone is named. -/
theorem recalledIn_target :
    (d.recalledIn i v c).modContext i (·.setTarget k (some .none)) = d.recalledIn i v (c.setTarget k (some .none)) := by
  rw [modContext_eq _ window_recalledIn rfl, Directory.recalledIn, withWindow_withWindow]
  rfl

theorem recalledIn_target_eq :
    d.recalledIn i v (c.setTarget k (some .none)) =
      d.asked i v c k (v.holding k) (v.pinCount k) (look c.members k) c.forcedCount (d.agent k) := by
  have members : put c.members k (look c.members k) = c.members := put_look _ _
  rw [asked_kept, RecallContext.withCell, members]
  exact (withAgent_self (d.recalledIn i v (c.setTarget k (some .none))) k).symm

theorem recalledIn_setMember (m : Membership) :
    (d.recalledIn i v (c.setTarget k (some .none))).modContext i (·.setMember k m) =
      d.asked i v c k (v.holding k) (v.pinCount k) m c.forcedCount (d.agent k) := by
  rw [modContext_eq _ window_recalledIn rfl, Directory.recalledIn, withWindow_withWindow, asked_kept]
  exact (withAgent_self (withWindow d i _) k).symm

theorem noticeFields_recalledIn : (d.recalledIn i v c).noticeFields i { v with context := some c } = d.noticeFields i v := by
  simp [Directory.noticeFields, handle_eq_slotHandle, Directory.recalledIn]

theorem recalledIn_revoke (held : v.holding k ≠ .none) :
    (d.recalledIn i v (c.setTarget k (some .none))).revoke i k true =
      d.asked i v c k .none 0 .neither (raised c.forcedCount 1) ((d.agent k).revoked i (d.noticeFields i v) (v.holding k) .none) := by
  have lowered : (v.holding k).lowered .none = .none := by
    rw [Holding.lowered, if_pos (above_none_iff.2 held)]
    rfl
  rw [Directory.revoke_eq_withCell true window_recalledIn rfl (l := .none) (by simp), noticeFields_recalledIn]
  show withAgent (withWindow (d.recalledIn i v _) i _) k _ = _
  rw [show Window.holding { v with context := some (c.setTarget k (some Level.none)) } k = v.holding k from rfl, lowered,
    Directory.recalledIn, withWindow_withWindow]
  simp only [Window.withCell, RecallContext.withCell, RecallContext.setTarget, put_put, Directory.asked]
  rfl

theorem recalledIn_enterOutstanding (now : Tick) :
    (d.recalledIn i v (c.setTarget k (some .none))).enterOutstanding now i k =
      d.asked i v c k (v.holding k) (v.pinCount k)
        (.outstanding (freshWait (d.agent k) now ((d.agent k).placeRecall i .none (d.noticeFields i v)).2)) c.forcedCount
        ((d.agent k).placeRecall i .none (d.noticeFields i v)).1 := by
  rw [enterOutstanding_eq window_recalledIn rfl (l := .none) (by simp), noticeFields_recalledIn, Directory.recalledIn,
    withWindow_withWindow, asked_kept]
  rfl

theorem recalledIn_placeRecall {x : Wait} (hm : look c.members k = .outstanding x) :
    (d.recalledIn i v (c.setTarget k (some .none))).placeRecall i k =
      d.asked i v c k (v.holding k) (v.pinCount k)
        (.outstanding { x with notice := ((d.agent k).placeRecall i .none (d.noticeFields i v)).2 }) c.forcedCount
        ((d.agent k).placeRecall i .none (d.noticeFields i v)).1 := by
  have sent : (d.recalledIn i v (c.setTarget k (some .none))).recallOf i k = some (.none, d.noticeFields i v) := by
    rw [Directory.recallOf, window_recalledIn]
    simp [noticeFields_recalledIn]
  have mark : ∀ n, (c.setTarget k (some .none)).markNotice k n =
      (c.setTarget k (some .none)).setMember k (.outstanding { x with notice := n }) := fun n => by
    rw [RecallContext.markNotice, show look (c.setTarget k (some .none)).members k = _ from hm]
  unfold Directory.placeRecall
  rw [sent]
  dsimp only
  rw [Directory.markNotice, modContext_eq (c := c.setTarget k (some .none)) _
    ((window_modAgent _ k _ i).trans window_recalledIn) rfl, mark, modAgent_eq_withAgent, Directory.recalledIn,
    withAgent_withWindow, withWindow_withWindow, asked_kept]
  rfl

end Sys2Proof.Machine
end

section
/-! SUPPORT. Cause DETACH asks one agent for NONE in a window where it holds, in the statement's words (R99 to R101, R109, R110). -/

namespace Sys2Proof.Machine

open Sys2Proof.Safety

variable {d : Directory} {i : SlotId} {v : Window} {c : RecallContext} {k : Agent}

/-- The force under which DETACH's agent is revoked in the context: the flag of the AGENT_DETACH, or while the agent is in neither set
the context's Force (R101). -/
def RecallContext.detachForce (c : RecallContext) (k : Agent) (force : Bool) : Bool :=
  force || (c.force && decide (look c.members k = .neither))

/-- DETACH asks the agent for NONE from `d`: `x` differs in the agent's cell, its record and the forced count. -/
def Directory.AsksAgent (d : Directory) (now : Tick) (i : SlotId) (v : Window) (c : RecallContext) (k : Agent) (force : Bool)
    (x : Directory) : Prop :=
  ∃ h n m forced a,
    x = d.asked i v c k h n m forced a ∧
      AgentMerged d x now i v (v.withCell c k h (put v.pins k n) .none m forced) c (c.withCell k .none m forced) force false
        (some .none) k ∧
      forced.toNat = min 255 (c.forcedCount.toNat + if revokedByForce v c force (some .none) k then 1 else 0)

/-- The place `m` and the record `a` of the agent where it keeps its holding: as they were, or in a set with a fresh wait, or with the
RECALL placed anew (R99, R100). -/
def Directory.KeptPlace (d : Directory) (now : Tick) (i : SlotId) (v : Window) (c : RecallContext) (k : Agent) (m : Membership)
    (a : AgentRecord) : Prop :=
  match look c.members k with
  | .blocked => m = .blocked ∧ a = d.agent k
  | .outstanding x =>
    if some .none = look c.targets k ∨ x.notice = .unsent then m = .outstanding x ∧ a = d.agent k
    else ∃ n, m = .outstanding { x with notice := n } ∧ RecallPlaced (d.agent k) a i .none (d.noticeFields i v) n
  | .neither =>
    if v.pinCount k = 0 then
      ∃ n, m = .outstanding (freshWait (d.agent k) now n) ∧ RecallPlaced (d.agent k) a i .none (d.noticeFields i v) n
    else m = .blocked ∧ a = d.agent k

/-! ### Which agents force revokes (R101) -/

theorem aboveTarget_none (held : v.holding k ≠ .none) (p : Option Level) :
    aboveTarget (v.holding k) (mergedTarget p (some .none)) = true := above_none_iff.2 held

theorem revokedByForce_blocked (hm : look c.members k = .blocked) (force : Bool) :
    revokedByForce v c (c.detachForce k force) (some .none) k = force := by
  simp [revokedByForce, RecallContext.detachForce, hm]

theorem revokedByForce_outstanding {x : Wait} (hm : look c.members k = .outstanding x) (force : Bool) :
    revokedByForce v c force (some .none) k = false := by
  simp [revokedByForce, hm]

theorem revokedByForce_neither (held : v.holding k ≠ .none) (hm : look c.members k = .neither) (force : Bool) :
    revokedByForce v c (c.detachForce k force) (some .none) k = ((c.force || force) && v.pinCount k != 0) := by
  simp [revokedByForce, RecallContext.detachForce, hm, aboveTarget_none held, Bool.or_comm]

/-! ### What the statement asks of the cell -/

section
variable {h : Holding} {n : BitVec 4} {m : Membership} {forced : BitVec 8} {a : AgentRecord} {force : Bool} {now : Tick}

theorem agent_asked : (d.asked i v c k h n m forced a).agent k = a := by simp [Directory.asked]

theorem pinCount_withCell (w : Window) (t : Level) : (w.withCell c k h (put v.pins k n) t m forced).pinCount k = n := by
  simp [Window.pinCount, Window.withCell]

theorem merged_revoked (hr : revokedByForce v c force (some .none) k = true)
    (placed : RevokedPlaced (revokedRecord (d.agent k) .none) a i (d.noticeFields i v)) :
    AgentMerged d (d.asked i v c k .none 0 .neither forced a) now i v
      (v.withCell c k .none (put v.pins k 0) .none .neither forced) c (c.withCell k .none .neither forced) force false
      (some .none) k := by
  refine ⟨look_put_same _ _ _, ?_⟩
  rw [if_pos hr]
  refine ⟨.none, a, rfl, (v.holding_withCell ..).trans (if_pos rfl), pinCount_withCell v .none, placed, ?_⟩
  exact if_pos (c := mergedTarget (look c.targets k) (some .none) = some .none) rfl ▸ ⟨look_put_same _ _ _, agent_asked⟩

/-- The agent stays as it is, or enters a set, or has its RECALL placed anew: its holding and its pins stay. -/
theorem merged_kept (hr : revokedByForce v c force (some .none) k = false)
    (place : d.KeptPlace now i v c k m a)
    (held : v.holding k ≠ .none) :
    AgentMerged d (d.asked i v c k (v.holding k) (v.pinCount k) m forced a) now i v
      (v.withCell c k (v.holding k) (put v.pins k (v.pinCount k)) .none m forced) c (c.withCell k .none m forced) force false
      (some .none) k := by
  have member : look (c.withCell k .none m forced).members k = m := look_put_same _ _ _
  refine ⟨look_put_same _ _ _, ?_⟩
  rw [if_neg (by simp [hr])]
  refine ⟨(v.holding_withCell ..).trans (if_pos rfl), pinCount_withCell v .none, ?_⟩
  rw [member, agent_asked]
  unfold Directory.KeptPlace at place
  cases hm : look c.members k with
  | blocked => simpa only [hm] using place
  | outstanding x =>
    simp only [hm] at place
    show if some Level.none = look c.targets k ∨ x.notice = .unsent then _ else _
    split at place
    · next stays => rw [if_pos stays]; exact place
    · next placed =>
      obtain ⟨n, hn, recalled⟩ := place
      rw [if_neg placed]
      exact ⟨.none, n, rfl, hn, recalled⟩
  | neither =>
    simp only [hm] at place
    show if (some Level.none).isSome = true ∧ Level.none.holding.rank < (v.holding k).rank then _ else _
    rw [if_pos ⟨rfl, above_iff.1 (above_none_iff.2 held)⟩, Enters, agent_asked]
    exact place

end

/-! ### The merge of DETACH's target -/

section
variable {now : Tick} {force : Bool}

theorem mergeTarget_recalledIn (held : v.holding k ≠ .none) :
    (d.recalledIn i v c).mergeTarget now force i k .none =
      match look c.members k with
      | .neither =>
        if v.pinCount k = 0 then (d.recalledIn i v (c.setTarget k (some .none))).enterOutstanding now i k
        else if c.force || force then (d.recalledIn i v (c.setTarget k (some .none))).revoke i k true
        else (d.recalledIn i v (c.setTarget k (some .none))).modContext i (·.setMember k .blocked)
      | .outstanding _ =>
        if look c.targets k = some .none then d.recalledIn i v (c.setTarget k (some .none))
        else (d.recalledIn i v (c.setTarget k (some .none))).placeRecallAgain i k
      | .blocked =>
        if force then (d.recalledIn i v (c.setTarget k (some .none))).revoke i k true
        else d.recalledIn i v (c.setTarget k (some .none)) := by
  have above : Window.holding { v with context := some c } k = v.holding k := rfl
  unfold Directory.mergeTarget
  rw [window_recalledIn]
  simp only [strengthen_none, recalledIn_target, above, above_none_iff.2 held, if_true]
  rfl

theorem asksAgent_revoked (held : v.holding k ≠ .none) {f : Bool} (hr : revokedByForce v c f (some .none) k = true) :
    d.AsksAgent now i v c k f ((d.recalledIn i v (c.setTarget k (some .none))).revoke i k true) := by
  refine ⟨_, _, _, _, _, recalledIn_revoke held, ?_, ?_⟩
  · rw [recalledIn_revoke held]
    refine merged_revoked hr ?_
    rw [revoked_eq _ _ _ held]
    exact placeRevoked_placed _ i _ (slot_noticeFields d i v)
  · rw [if_pos hr, toNat_raised_one]

/-- An agent that keeps its holding. -/
theorem asksAgent_kept {f : Bool} {m : Membership} {a : AgentRecord} {x : Directory} (held : v.holding k ≠ .none)
    (hx : x = d.asked i v c k (v.holding k) (v.pinCount k) m c.forcedCount a)
    (hr : revokedByForce v c f (some .none) k = false)
    (place : d.KeptPlace now i v c k m a) :
    d.AsksAgent now i v c k f x := by
  subst hx
  refine ⟨_, _, _, _, _, rfl, merged_kept hr place held, ?_⟩
  rw [if_neg (by simp [hr])]
  exact toNat_eq_min _

/-- DETACH asks the agent for NONE. -/
theorem mergeTarget_asksAgent (held : v.holding k ≠ .none) :
    d.AsksAgent now i v c k (c.detachForce k force) ((d.recalledIn i v c).mergeTarget now force i k .none) := by
  rw [mergeTarget_recalledIn held]
  cases hm : look c.members k with
  | neither =>
    have forced := revokedByForce_neither (v := v) held hm force
    dsimp only
    by_cases pinned : v.pinCount k = 0
    · rw [if_pos pinned]
      refine asksAgent_kept held (recalledIn_enterOutstanding now) (forced.trans (by simp [pinned])) ?_
      simp only [Directory.KeptPlace, hm, pinned, if_true]
      exact ⟨_, rfl, placeRecall_placed _ _ _ _⟩
    · rw [if_neg pinned]
      split
      · next on => exact asksAgent_revoked held (forced.trans (by rw [on, Bool.true_and]; exact bne_iff_ne.2 pinned))
      · next off =>
        refine asksAgent_kept held (recalledIn_setMember .blocked) (forced.trans (by simp [off])) ?_
        rw [Directory.KeptPlace, hm]
        dsimp only
        rw [if_neg pinned]
        exact ⟨rfl, rfl⟩
  | outstanding x =>
    have unforced := revokedByForce_outstanding (v := v) hm (c.detachForce k force)
    have unsent : (d.recalledIn i v (c.setTarget k (some .none))).unsent i k = (x.notice == .unsent) := by
      rw [Directory.unsent, member_of_context window_recalledIn rfl, show look (c.setTarget k (some Level.none)).members k = _ from hm]
    have stays : some Level.none = look c.targets k ∨ x.notice = .unsent →
        d.AsksAgent now i v c k (c.detachForce k force) (d.recalledIn i v (c.setTarget k (some .none))) := fun h => by
      refine asksAgent_kept held recalledIn_target_eq unforced ?_
      simp [Directory.KeptPlace, hm, h]
    dsimp only
    split
    · next named => exact stays (.inl named.symm)
    · next other =>
      unfold Directory.placeRecallAgain
      rw [unsent]
      split
      · next waits => exact stays (.inr (by simpa using waits))
      · next sent =>
        refine asksAgent_kept held (recalledIn_placeRecall hm) unforced ?_
        simp only [Directory.KeptPlace, hm]
        rw [if_neg (not_or.2 ⟨fun e => other e.symm, by simpa using sent⟩)]
        exact ⟨_, rfl, placeRecall_placed _ _ _ _⟩
  | blocked =>
    have forced := revokedByForce_blocked (v := v) hm force
    dsimp only
    split
    · next on => exact asksAgent_revoked held (forced.trans on)
    · next off =>
      refine asksAgent_kept held recalledIn_target_eq (forced.trans (by simpa using off)) ?_
      simp [Directory.KeptPlace, hm]

end

end Sys2Proof.Machine
end

section
/-! SUPPORT. Cause DETACH reaches a slot (R157, step 3; R158), and the completion of a recall for which no RECALL is queued (R117, R118). -/

namespace Sys2Proof.Machine

open Sys2Proof.Safety

variable {d : Directory} {i : SlotId} {w : Window} {c : RecallContext} {k : Agent} {now : Tick}

/-! ### The completion stages where no RECALL is queued (R118, R127, R137) -/

theorem closeContext_delivered (now : Tick) (hw : d.window i = some w) (delivered : ∀ j, (d.agent j).holdsRecall i = false) :
    d.closeContext now i =
      (withWindow d i { w with context := none, idle := idleFrom w.fields.idleLimit now }).headService now i := by
  have hv : (withWindow d i { w with context := none }).window i = some { w with context := none } := by simp
  unfold Directory.closeContext
  dsimp only
  rw [modWindow_eq_withWindow _ hw, withdrawAll_none (d := withWindow d i { w with context := none }) delivered,
    modWindow_eq_withWindow _ hv, withWindow_withWindow]
  rfl

theorem completeRetirement_delivered {t : Tag} (hw : d.window i = some w) (hc : w.context = some c) (ht : w.retireTag = some t)
    (delivered : ∀ j, (d.agent j).holdsRecall i = false) :
    d.completeRetirement i = withRetired d i w.watch t (slotHandle d i) c.forcedCount := by
  have hv : (withWindow d i { w with context := none }).window i = some { w with context := none } := by simp
  unfold Directory.completeRetirement
  dsimp only
  rw [hw, Option.bind_some, ht, modWindow_eq_withWindow _ hw,
    withdrawAll_none (d := withWindow d i { w with context := none }) delivered, forcedWord_eq hw hc, withRetired_eq,
    ← watchGone_withWindow _ i { w with context := none }, freeSlot_endWatch hv]
  simp only [slotHandle_withWindow]
  rfl

theorem complete_delivered (now : Tick) (hw : d.window i = some w) (hc : w.context = some c)
    (delivered : ∀ j, (d.agent j).holdsRecall i = false) : RecallEnded d (d.complete now i c) now i w c := by
  unfold RecallEnded Directory.complete
  split
  · intro t ht
    exact completeRetirement_delivered hw hc ht delivered
  · split
    · intro p hp
      have hv : (withWindow d i (w.applied p)).window i = some (w.applied p) := by simp
      rw [applyRevision_eq hw hc hp]
      refine (closeContext_delivered (d := withEnd (withWindow d i (w.applied p)) _) now hv delivered).trans ?_
      exact congrArg (fun y => (withEnd y _).headService now i) (withWindow_withWindow d i (w.applied p) _)
    · exact closeContext_delivered now hw delivered

theorem waits_iff : c.waits = true ↔ ∃ j, InSet c j := by
  rw [RecallContext.waits, List.any_eq_true]
  constructor
  · rintro ⟨j, _, member⟩
    refine ⟨j, fun neither => ?_⟩
    rw [neither] at member
    cases member
  · rintro ⟨j, member⟩
    exact ⟨j, List.mem_finRange j, isMember_of_inSet member⟩

theorem checkCompletion_waits (now : Tick) (hw : d.window i = some w) (hc : w.context = some c) (h : ∃ j, InSet c j) :
    d.checkCompletion now i = d := by
  simp [Directory.checkCompletion, context_eq, hw, hc, waits_iff.2 h]

theorem checkCompletion_ends (now : Tick) (hw : d.window i = some w) (hc : w.context = some c) (h : ∀ j, ¬ InSet c j) :
    d.checkCompletion now i = d.complete now i c := by
  have empty : c.waits = false := by
    by_contra waits
    obtain ⟨j, hj⟩ := waits_iff.1 (by simpa using waits)
    exact h j hj
  simp [Directory.checkCompletion, context_eq, hw, hc, empty]

/-! ### DETACH handed over -/

/-- The context in which DETACH asks for agent `k`: the one that runs, or a new one (R98, R158). -/
def Window.detachContext (w : Window) (k : Agent) : RecallContext :=
  (w.context.getD (RecallContext.blank false)).addCause (.detach k)

/-- The window with its reservation dropped where a context is new (R98). -/
def Window.detachBase (w : Window) : Window := { w with reservation := if w.context = none then none else w.reservation }

theorem handOverDetach_held (force : Bool) (hw : d.window i = some w) (held : w.holding k ≠ .none) :
    d.handOverDetach now k force i =
      ((d.recalledIn i w.detachBase (w.detachContext k)).mergeTarget now force i k .none).checkCompletion now i := by
  have started : (if w.context.isSome then d.addCause i (.detach k) else d.createContext i (.detach k) false) =
      d.recalledIn i w.detachBase (w.detachContext k) := by
    unfold Directory.recalledIn Window.detachBase Window.detachContext
    cases hc : w.context with
    | none => exact modWindow_eq_withWindow (w := w) _ hw
    | some c => exact modContext_eq (w := w) _ hw hc
  unfold Directory.handOverDetach
  rw [hw]
  dsimp only
  rw [if_pos (held_eq_true.2 held), started]

theorem handOverDetach_none (force : Bool) (h : ∀ w, d.window i = some w → w.holding k = .none) :
    d.handOverDetach now k force i = d := by
  unfold Directory.handOverDetach
  cases hw : d.window i with
  | none => rfl
  | some w =>
    dsimp only
    rw [h w hw]
    rfl

/-- What DETACH does in a slot, as the statement says. -/
theorem handOverDetach_joins (d : Directory) (now : Tick) (i : SlotId) (k : Agent) (force : Bool) :
    DetachJoins d (d.handOverDetach now k force i) now i k force := by
  unfold DetachJoins
  cases hw : d.window i with
  | none =>
    exact handOverDetach_none force fun w h => nomatch hw.symm.trans h
  | some w =>
    dsimp only
    by_cases none : w.holding k = .none
    · rw [if_pos none]
      exact handOverDetach_none force fun v hv => by cases hw.symm.trans hv; exact none
    · rw [if_neg none, handOverDetach_held force hw none]
      obtain ⟨h, n, m, forced, a, e, merged, count⟩ :=
        mergeTarget_asksAgent (d := d) (i := i) (v := w.detachBase) (c := w.detachContext k) (now := now) (force := force)
          (k := k) none
      have window : ((d.recalledIn i w.detachBase (w.detachContext k)).mergeTarget now force i k .none).window i =
          some (w.detachBase.withCell (w.detachContext k) k h (put w.pins k n) .none m forced) := by
        rw [e, Directory.asked]
        simp [Window.detachBase]
      refine ⟨_, _, _, window, merged, ?_, ?_, count, fun j hj => ?_, ?_, fun j hj => ?_, ?_, ?_, ?_, ?_, fun waits => ?_,
        fun empty delivered => ?_⟩
      · simp [Window.withCell, Window.detachBase, Window.holding, Window.pinCount]
      · simp [RecallContext.withCell, Window.detachContext, RecallContext.addCause, RecallContext.setDetachAgent]
      · rw [e]; simp [Directory.asked, hj]
      · rw [e]; simp [Directory.asked, withAgent, withWindow]
      · rw [e]; simp [Directory.asked, withAgent, withWindow, hj]
      · rw [e]; rfl
      · rw [e]; rfl
      · rw [e]; rfl
      · rw [e]; rfl
      · exact checkCompletion_waits now window rfl waits
      · rw [checkCompletion_ends now window rfl empty]
        exact complete_delivered now window rfl delivered

end Sys2Proof.Machine
end

section
/-! SUPPORT. Cause DETACH reaches every window (R157, step 3), and what an AGENT_DETACH leaves alone on its way to its end (R161). -/

namespace Sys2Proof.Machine

open Sys2Proof.Safety

variable {d : Directory} {i : SlotId} {k : Agent} {now : Tick}

/-! ### Settings and records stay -/

/-- From `d` to `d'` every agent keeps its settings, and records are only added. -/
structure Directory.Furthers (d d' : Directory) : Prop where
  settings : ∀ j, (d'.agent j).settings = (d.agent j).settings
  completions : d.completions <+: d'.completions

namespace Directory

theorem Furthers.refl (d : Directory) : d.Furthers d := ⟨fun _ => rfl, List.prefix_refl _⟩

theorem Furthers.trans {a b c : Directory} (h : a.Furthers b) (g : b.Furthers c) : a.Furthers c :=
  ⟨fun j => (g.settings j).trans (h.settings j), h.completions.trans g.completions⟩

theorem Steady.furthers {d d' : Directory} (h : d.Steady d') : d.Furthers d' :=
  ⟨fun j => (h.agents j).settings, h.completions⟩

theorem Furthers.foldl {α : Type} (f : Directory → α → Directory) (g : ∀ (d : Directory) (x : α), d.Furthers (f d x)) (l : List α)
    (d : Directory) :
    d.Furthers (l.foldl f d) := by
  induction l generalizing d with
  | nil => exact .refl d
  | cons x l ih => exact (g d x).trans (ih _)

end Directory

theorem settings_of_revokedPlaced {a b : AgentRecord} {f : NoticeFields} (h : RevokedPlaced a b i f) :
    b.settings = a.settings := by
  obtain ⟨e, _⟩ := h
  rw [← e]

theorem sameStanding_of_enters {d d' : Directory} {w : Window} {l : Level} {m : Membership} (h : Enters d d' now i w k l m) :
    (d.agent k).SameStanding (d'.agent k) := by
  unfold Enters at h
  split at h
  · obtain ⟨n, _, placed⟩ := h
    exact sameStanding_of_placed placed
  · rw [h.2]
    exact .refl _

/-- Whatever a cause does with an agent, it keeps its settings. -/
theorem settings_of_merged {d d' : Directory} {w w' : Window} {c c' : RecallContext} {force first : Bool} {named : Option Level}
    (h : AgentMerged d d' now i w w' c c' force first named k) : (d'.agent k).settings = (d.agent k).settings := by
  obtain ⟨_, h⟩ := h
  split at h
  · obtain ⟨l, b, _, _, _, revoked, h⟩ := h
    have same : b.settings = (revokedRecord (d.agent k) l).settings := settings_of_revokedPlaced revoked
    split at h
    · rw [h.2, same]
      rfl
    · obtain ⟨n, _, placed⟩ := h
      exact (sameStanding_of_placed placed).settings.trans same
  · obtain ⟨_, _, h⟩ := h
    split at h
    · rw [h.2]
    · split at h
      · rw [h.2]
      · obtain ⟨l, n, _, _, placed⟩ := h
        exact (sameStanding_of_placed placed).settings
    · rw [h.2]
    · split at h
      · exact (sameStanding_of_enters h).settings
      · rw [h.2]

theorem furthers_handOverDetach (now : Tick) (k : Agent) (force : Bool) (d : Directory) (i : SlotId) :
    d.Furthers (d.handOverDetach now k force i) := by
  cases hw : d.window i with
  | none => rw [Directory.handOverDetach, hw]; exact .refl d
  | some w =>
    by_cases none : w.holding k = .none
    · rw [handOverDetach_none force fun v hv => by cases hw.symm.trans hv; exact none]
      exact .refl d
    · obtain ⟨h, n, m, forced, a, e, merged, _⟩ :=
        mergeTarget_asksAgent (d := d) (i := i) (v := w.detachBase) (c := w.detachContext k) (now := now) (force := force)
          (k := k) none
      have asked : d.Furthers ((d.recalledIn i w.detachBase (w.detachContext k)).mergeTarget now force i k .none) := by
        refine ⟨fun j => ?_, ?_⟩
        · by_cases hj : j = k
          · subst hj
            exact settings_of_merged merged
          · rw [e]
            simp [Directory.asked, hj]
        · rw [e]
          exact List.prefix_refl _
      rw [handOverDetach_held force hw none]
      exact asked.trans ((Directory.Steady.refl _).checkCompletion now i).furthers

theorem steady_leaveWaiters (now : Tick) (k : Agent) (d : Directory) (i : SlotId) : d.Steady (d.leaveWaiters now k i) := by
  have left : d.Steady (d.delist k i) := (Directory.Steady.refl d).touch i fun w => by
    unfold Window.delist
    split <;> rfl
  rw [Directory.leaveWaiters_eq]
  split
  · exact left.headService now i
  · exact left

/-! ### Every window (R157, step 3) -/

theorem free_handOverDetach (now : Tick) (k : Agent) (force : Bool) (d : Directory) (i j : SlotId) (h : d.window j = none) :
    (d.handOverDetach now k force i).window j = none :=
  ((Works.refl Mode.whole d).handOverDetach (Mode.settled_whole i) now k force).calm.free j h

/-- A FREE slot may be passed over: DETACH does nothing there. -/
theorem handOverDetach_filter (now : Tick) (k : Agent) (force : Bool) (live : SlotId → Bool) (l : List SlotId) (d : Directory)
    (h : ∀ i, live i = false → d.window i = none) :
    (l.filter live).foldl (fun d i => d.handOverDetach now k force i) d =
      l.foldl (fun d i => d.handOverDetach now k force i) d := by
  induction l generalizing d with
  | nil => rfl
  | cons i l ih =>
    rw [List.filter_cons, List.foldl_cons]
    split
    · rw [List.foldl_cons]
      exact ih _ fun j hj => free_handOverDetach now k force d i j (h j hj)
    · next free =>
      rw [handOverDetach_none force fun w hw => nomatch hw.symm.trans (h i (by simpa using free))]
      exact ih d h

theorem handOverDetach_liveSlots (d : Directory) (now : Tick) (k : Agent) (force : Bool) :
    d.liveSlots.foldl (fun d i => d.handOverDetach now k force i) d =
      allSlots.foldl (fun d i => d.handOverDetach now k force i) d :=
  handOverDetach_filter now k force _ allSlots d fun i hi => by simpa using hi

/-- The slots in ascending order, one event step each. -/
theorem detachAsked_foldl (d : Directory) (now : Tick) (k : Agent) (force : Bool) :
    DetachAsked d (allSlots.foldl (fun d i => d.handOverDetach now k force i) d) now k force := by
  refine ⟨fun n => (allSlots.take n).foldl (fun d i => d.handOverDetach now k force i) d, rfl, ?_, fun i => ?_⟩
  · dsimp only
    rw [List.take_of_length_le (by simp [allSlots])]
  · have next : allSlots.take (i.val + 1) = allSlots.take i.val ++ [i] := by
      rw [List.take_add_one, allSlots, List.getElem?_eq_getElem (by simp), List.getElem_finRange]
      rfl
    dsimp only
    rw [next, List.foldl_append]
    exact handOverDetach_joins _ now i k force

/-- An accepted AGENT_DETACH before its steps: the agent is DETACHING. -/
def Directory.begun (d : Directory) (k : Agent) (t : Tag) : Directory :=
  withAgent d k { d.agent k with state := .detaching, detach := some { tag := t, forced := 0 } }

theorem startDetach_eq (d : Directory) (now : Tick) (k : Agent) (t : Tag) (force : Bool) :
    d.startDetach now k t force =
      allSlots.foldl (fun d i => d.handOverDetach now k force i) (leftLists (d.begun k t) now k) := by
  have left : (d.begun k t).liveSlots.foldl (fun d i => d.leaveWaiters now k i) (d.begun k t) = leftLists (d.begun k t) now k :=
    Directory.leaveWaiters_liveSlots _ now k
  rw [← handOverDetach_liveSlots, ← left]
  rfl

theorem furthers_startDetach (d : Directory) (now : Tick) (k : Agent) (t : Tag) (force : Bool) :
    d.Furthers (d.startDetach now k t force) := by
  have begun : d.Furthers (d.begun k t) := by
    refine ⟨fun j => ?_, List.prefix_refl _⟩
    rw [Directory.begun, agent_withAgent]
    split
    · next e => rw [e]
    · rfl
  have left := Directory.Furthers.foldl (fun d i => d.leaveWaiters now k i) (fun d i => (steady_leaveWaiters now k d i).furthers)
    (d.begun k t).liveSlots (d.begun k t)
  exact (begun.trans left).trans (.foldl _ (furthers_handOverDetach now k force) _ _)

end Sys2Proof.Machine
end

section
/-! SUPPORT. The taking of an AGENT_DETACH (R156, R157): its park or its completion, and the agent that waits nowhere and holds nothing
or holds in one OPEN window. -/

namespace Sys2Proof.Machine

open Sys2Proof.Safety

variable {s : State} {e : Entry} {rest : List Entry} {k : Agent} {d : Directory} {i : SlotId} {w : Window} {now : Tick}

/-! ### The taking -/

theorem agentOf_of_toNat {n : BitVec 4} (h : n.toNat = k.val) : agentOf n = some k := by
  have small : n.toNat < 8 := h ▸ k.isLt
  rw [agentOf, dif_pos small]
  exact congrArg some (Fin.ext h)

/-- The force flag of an AGENT_DETACH. -/
def Entry.forced (e : Entry) : Bool := (look e.params 0).getLsbD 16

/-- The directory when every window has been asked for agent `k`'s holding (R157, steps 1 to 3). -/
def detachStarted (s : State) (e : Entry) (k : Agent) : Directory :=
  allSlots.foldl (fun d i => d.handOverDetach s.clock k e.forced i) (leftLists (s.directory.begun k e.tag) s.clock k)

theorem exec_agentDetach (command : Command s .agentDetach e rest) (number : ((look e.params 0).extractLsb' 0 4).toNat = k.val)
    (online : Online s k) :
    exec .agentDetach s =
      .next (taken s rest
        (if ((detachStarted s e k).agent k).holdingCount = 0 then (detachStarted s e k).completeDetach s.clock k
        else (detachStarted s e k).park { tag := e.tag, work := .detach k })) := by
  have named : agentOf (agentField (e.param 0)) = some k := agentOf_of_toNat number
  have accepted : s.directory.detachAgent s.clock e = s.directory.acceptDetach s.clock e k := by
    have online : (s.directory.agent k).state = .online := online
    simp only [Directory.detachAgent, Directory.forAgent, named, online, if_true]
  have started : detachStarted s e k = s.directory.startDetach s.clock k e.tag (forceField (e.param 0)) :=
    (startDetach_eq ..).symm
  have run : exec .agentDetach s = .next (taken s rest (s.directory.detachAgent s.clock e)) :=
    congrArg _ (takeCommand_of_command command)
  rw [run, accepted, started]
  rfl

/-- Every window is asked in turn; then the command is parked, or the detach completes. -/
theorem agentDetach_asks (command : Command s .agentDetach e rest)
    (number : ((look e.params 0).extractLsb' 0 4).toNat = k.val) (online : Online s k) :
    ∃ d, DetachAsked (leftLists (s.directory.begun k e.tag) s.clock k) d s.clock k e.forced ∧
      ((d.agent k).holdingCount ≠ 0 →
        exec .agentDetach s = .next (taken s rest { d with parked := d.parked ++ [{ tag := e.tag, work := .detach k }] })) ∧
      ((d.agent k).holdingCount = 0 → ∀ p, (d.agent k).detach = some p →
        ∃ d', exec .agentDetach s = .next (taken s rest d') ∧ DetachEnded s.directory d' k p p.forced) := by
  refine ⟨detachStarted s e k, detachAsked_foldl _ s.clock k e.forced, fun held => ?_, fun empty p detach => ?_⟩
  · rw [exec_agentDetach command number online, if_neg held]
    rfl
  · have further : s.directory.Furthers (detachStarted s e k) := by
      rw [detachStarted, ← startDetach_eq]
      exact furthers_startDetach s.directory s.clock k e.tag e.forced
    rw [exec_agentDetach command number online, if_pos empty]
    exact ⟨_, rfl, completeDetach_ended s.clock detach empty (further.settings k) further.completions rfl⟩

/-! ### An agent that waits nowhere -/

theorem leftLists_nowhere (now : Tick) (h : ∀ j, ∀ w ∈ d.window j, ∀ x ∈ w.waiters, x.agent ≠ k) : leftLists d now k = d := by
  rw [← Directory.leaveWaiters_liveSlots]
  have stays : ∀ l : List SlotId, l.foldl (fun d i => d.leaveWaiters now k i) d = d := fun l => by
    induction l with
    | nil => rfl
    | cons i l ih =>
      have here : d.leaveWaiters now k i = d := by
        cases hw : d.window i with
        | none => rw [Directory.leaveWaiters, hw]
        | some w => exact leaveWaiters_unlisted now hw (h i w hw)
      rw [List.foldl_cons, here, ih]
  exact stays _

theorem handOverDetach_nowhere (now : Tick) (force : Bool) (l : List SlotId)
    (h : ∀ j ∈ l, ∀ w, d.window j = some w → w.holding k = .none) :
    l.foldl (fun d i => d.handOverDetach now k force i) d = d := by
  induction l with
  | nil => rfl
  | cons i l ih =>
    rw [List.foldl_cons, handOverDetach_none force (h i List.mem_cons_self)]
    exact ih fun j hj => h j (List.mem_cons_of_mem _ hj)

/-- An agent that holds in one window alone is asked there alone. -/
theorem handOverDetach_only (now : Tick) (force : Bool) (others : ∀ j, j ≠ i → ∀ v ∈ d.window j, v.holding k = .none) :
    allSlots.foldl (fun d i => d.handOverDetach now k force i) d = d.handOverDetach now k force i := by
  obtain ⟨u, v, split⟩ := List.append_of_mem (List.mem_finRange i)
  have once : (u ++ i :: v).Nodup := split ▸ List.nodup_finRange 128
  rw [List.nodup_append, List.nodup_cons] at once
  have before : u.foldl (fun d i => d.handOverDetach now k force i) d = d :=
    handOverDetach_nowhere now force u fun j hj => others j fun e => once.2.2 j hj i List.mem_cons_self e
  have after : v.foldl (fun d i => d.handOverDetach now k force i) (d.handOverDetach now k force i) =
      d.handOverDetach now k force i := by
    refine handOverDetach_nowhere now force v fun j hj w' hw' => ?_
    obtain ⟨w, hw, fall⟩ := (Directory.Falls.refl d).handOverDetach now k force i j w' hw'
    have lower := fall.lower k
    rw [others j (fun e => once.2.1.1 (e ▸ hj)) w hw] at lower
    exact rank_eq_zero.1 (Nat.le_zero.1 lower)
  rw [show allSlots = u ++ i :: v from split, List.foldl_append, before, List.foldl_cons, after]

section

variable (unlisted : ∀ j, ∀ w ∈ s.directory.window j, ∀ x ∈ w.waiters, x.agent ≠ k)
include unlisted

theorem detachStarted_unlisted :
    detachStarted s e k =
      allSlots.foldl (fun d i => d.handOverDetach s.clock k e.forced i) (s.directory.begun k e.tag) := by
  rw [detachStarted, leftLists_nowhere s.clock (d := s.directory.begun k e.tag) unlisted]

theorem detachStarted_only (others : ∀ j, j ≠ i → ∀ v ∈ s.directory.window j, v.holding k = .none) :
    detachStarted s e k = (s.directory.begun k e.tag).handOverDetach s.clock k e.forced i := by
  rw [detachStarted_unlisted unlisted]
  exact handOverDetach_only (d := s.directory.begun k e.tag) s.clock e.forced others

end

/-! ### The end of a detach in this event (R161) -/

/-- Agent `k` OFFLINE, with no notice, no holding and no detach left. -/
def Directory.gone (d : Directory) (k : Agent) (a : AgentRecord) : Directory :=
  withAgent d k { a with state := .offline, holdingCount := 0, notices := [], backlog := [], detach := none }

/-- The record of an AGENT_DETACH with this Detach Forced count. -/
def Entry.detachRecord (e : Entry) (k : Agent) (forced : Word) : Record :=
  { plainRecord e .done (BitVec.ofNat 32 k.val) with word2 := forced }

/-- Once no window asks for the agent any more, its detach completes; no parked command has its tag. -/
theorem endDetach_unparked {a : AgentRecord} {n : Nat} (kind : e.kind = CommandKind.agentDetach.code)
    (fresh : ∀ p ∈ d.parked, p.tag ≠ e.tag) (detach : (d.agent k).detach = some { tag := e.tag, forced := n })
    (count : (d.agent k).holdingCount = 0) (settings : (d.agent k).settings = a.settings)
    (score : (d.agent k).faultScore = a.faultScore) :
    (d.modAgent k fun a => { a.emptyNotices with state := .offline }).endDetach k .done =
      withRecord (d.gone k a) (e.detachRecord k (BitVec.ofNat 32 n)) := by
  have kept : ((d.modAgent k fun a => { a.emptyNotices with state := .offline }).agent k).detach =
      some { tag := e.tag, forced := n } := by
    rw [agent_modAgent, if_pos rfl]
    exact detach
  have parked : d.parked.filter (·.tag != e.tag) = d.parked :=
    List.filter_eq_self.2 fun p hp => bne_iff_ne.2 (fresh p hp)
  have left : (d.modAgent k fun a => { a.emptyNotices with state := .offline }).modAgent k (fun a => { a with detach := none }) =
      d.gone k a := by
    rw [modAgent_modAgent, modAgent_eq_withAgent, Directory.gone, ← count, ← settings, ← score]
    rfl
  unfold Directory.endDetach
  rw [kept]
  dsimp only
  rw [left]
  have word : Record.counted e.tag .agentDetach .done (agentWord k) (BitVec.ofNat 32 n) = e.detachRecord k (BitVec.ofNat 32 n) := by
    rw [Entry.detachRecord, plainRecord, kind]
    rfl
  rw [word]
  show ({ withRecord (d.gone k a) _ with parked := d.parked.filter (·.tag != e.tag) } : Directory) = _
  rw [parked]
  rfl

theorem dismissed_nowhere (h : d.detachSlots k = []) : d.dismissed now k = d := by
  rw [Directory.dismissed, h]
  rfl

theorem detachSlots_nil (h : ∀ j, ∀ w ∈ d.window j, ∀ c ∈ w.context, look c.detachAgents k = false) : d.detachSlots k = [] := by
  refine List.eq_nil_iff_forall_not_mem.2 fun j hj => ?_
  obtain ⟨c, hc, asks⟩ := mem_detachSlots.1 hj
  obtain ⟨w, hw, hc⟩ := Option.bind_eq_some_iff.1 hc
  rw [h j w hw c hc] at asks
  cases asks

/-! ### The two plain cases -/

/-- An agent that waits nowhere and holds nothing is OFFLINE at once. -/
theorem agentDetach_idle (command : Command s .agentDetach e rest)
    (number : ((look e.params 0).extractLsb' 0 4).toNat = k.val) (online : Online s k)
    (unlisted : ∀ j, ∀ w ∈ s.directory.window j, ∀ x ∈ w.waiters, x.agent ≠ k)
    (unasked : ∀ j, ∀ w ∈ s.directory.window j, ∀ c ∈ w.context, look c.detachAgents k = false)
    (nowhere : ∀ j, ∀ w ∈ s.directory.window j, w.holding k = .none) (empty : (s.directory.agent k).holdingCount = 0) :
    exec .agentDetach s =
      .next (taken s rest (withRecord (s.directory.gone k (s.directory.agent k)) (e.detachRecord k 0))) := by
  have ⟨_, kind, fresh⟩ := command
  have started : detachStarted s e k = s.directory.begun k e.tag := by
    rw [detachStarted_unlisted unlisted]
    exact handOverDetach_nowhere (d := s.directory.begun k e.tag) s.clock e.forced _ fun j _ => nowhere j
  have begun : (s.directory.begun k e.tag).agent k =
      { s.directory.agent k with state := .detaching, detach := some { tag := e.tag, forced := 0 } } := by
    rw [Directory.begun, agent_withAgent, if_pos rfl]
  rw [exec_agentDetach command number online, started, if_pos (by rw [begun]; exact empty), completeDetach_eq,
    dismissed_nowhere (detachSlots_nil (d := s.directory.begun k e.tag) unasked),
    endDetach_unparked (d := s.directory.begun k e.tag) (n := 0) (a := s.directory.agent k) kind fresh (by rw [begun]) (by rw [begun]; exact empty)
      (by rw [begun]) (by rw [begun])]
  rw [Directory.gone, Directory.begun, withAgent_withAgent]
  rfl

/-- An agent that holds in one OPEN window is asked for its copy. -/
theorem agentDetach_recalls (command : Command s .agentDetach e rest)
    (number : ((look e.params 0).extractLsb' 0 4).toNat = k.val) (online : Online s k)
    (unlisted : ∀ j, ∀ w ∈ s.directory.window j, ∀ x ∈ w.waiters, x.agent ≠ k)
    (hw : s.directory.window i = some w) (held : w.holding k ≠ .none)
    (others : ∀ j, j ≠ i → ∀ v ∈ s.directory.window j, v.holding k = .none) (opened : w.context = none)
    (counted : (s.directory.agent k).holdingCount ≠ 0) (unpinned : e.forced = true → w.pinCount k = 0) :
    ∃ d, exec .agentDetach s = .next (taken s rest d) ∧
      d.parked = s.directory.parked ++ [{ tag := e.tag, work := .detach k }] ∧
      RecallStarted (s.directory.begun k e.tag) d s.clock i w
        { RecallContext.blank false with detachAgents := put (Vector.replicate 8 false) k true }
        (fun j => if j = k then some .none else none) := by
  have hb : (s.directory.begun k e.tag).window i = some w := hw
  have blank : look (w.detachContext k).members k = .neither := by
    rw [Window.detachContext, opened]
    exact look_replicate _ _
  have unforced : (w.detachContext k).force = false := by
    rw [Window.detachContext, opened]
    rfl
  have same : ((s.directory.begun k e.tag).recalledIn i w.detachBase (w.detachContext k)).mergeTarget s.clock e.forced i k .none =
      ((s.directory.begun k e.tag).recalledIn i w.detachBase (w.detachContext k)).mergeTarget s.clock false i k .none := by
    rw [mergeTarget_recalledIn (v := w.detachBase) held, mergeTarget_recalledIn (v := w.detachBase) held, blank, unforced]
    by_cases pin : w.detachBase.pinCount k = 0
    · simp only [pin, if_true]
    · have off : e.forced = false := by
        by_contra on
        exact pin (unpinned (by simpa using on))
      rw [off]
  have start : ((s.directory.begun k e.tag).recalledIn i w.detachBase (w.detachContext k)).mergeTarget s.clock false i k .none =
      (s.directory.begun k e.tag).startRecall s.clock i (.detach k) false [(k, .none)] := by
    have created : (s.directory.begun k e.tag).createContext i (.detach k) false =
        (s.directory.begun k e.tag).recalledIn i w.detachBase (w.detachContext k) := by
      rw [Directory.createContext, modWindow_eq_withWindow _ hb, Directory.recalledIn, Window.detachBase, Window.detachContext,
        opened, if_pos rfl]
      rfl
    rw [Directory.startRecall, created]
    rfl
  obtain ⟨started, parked, _⟩ := startRecall_started (d := s.directory.begun k e.tag) (now := s.clock) (cause := .detach k)
    (force := false) (ts := [(k, .none)]) (targets := fun j => if j = k then some .none else none) hb (by simp)
    (fun j l => by
      by_cases hj : j = k
      · simp [hj, eq_comm]
      · simp [hj])
    fun j l hl => by
      split at hl
      · next hj =>
        cases hl
        exact ⟨hj ▸ above_none_iff.2 held, .inr rfl⟩
      · cases hl
  have handed : detachStarted s e k = (s.directory.begun k e.tag).startRecall s.clock i (.detach k) false [(k, .none)] := by
    rw [detachStarted_only unlisted others, handOverDetach_held e.forced hb held, same, start]
    exact checkCompletion_of_started started (j := k) (by simp)
  have stands : (((s.directory.begun k e.tag).startRecall s.clock i (.detach k) false [(k, .none)]).agent k).holdingCount ≠ 0 := by
    obtain ⟨⟨c, _, _, agents⟩, _⟩ := started
    have entered := (agents k).2
    simp only [if_true] at entered
    rw [(sameStanding_of_enters entered).count, Directory.begun, agent_withAgent, if_pos rfl]
    exact counted
  rw [exec_agentDetach command number online, handed, if_neg stands]
  exact ⟨_, rfl, congrArg (· ++ _) parked, started⟩

end Sys2Proof.Machine
end

section
/-! SUPPORT. A forced AGENT_DETACH of an agent that pins its one copy (R101, R109, R110, R160, R161): the copy is revoked, and the detach
completes in the same event. -/

namespace Sys2Proof.Machine

open Sys2Proof.Safety

variable {s : State} {e : Entry} {rest : List Entry} {k : Agent} {d : Directory} {i : SlotId} {w : Window} {now : Tick}

/-! ### The revocation -/

/-- A REVOKED in place of a notice, or behind the others, queues no RECALL (R37). -/
theorem holdsRecall_placeRevoked {a : AgentRecord} {j : SlotId} (f : NoticeFields) (h : a.holdsRecall j = false) :
    (a.placeRevoked i f).holdsRecall j = false := by
  have still : ∀ n ∈ a.notices, (n.slot == j && n.isRecall) = false := fun n hn => by
    simpa only [Bool.not_eq_true] using List.any_eq_false.1 h n hn
  rw [AgentRecord.holdsRecall, List.any_eq_false]
  intro n hn
  rw [Bool.not_eq_true]
  unfold AgentRecord.placeRevoked at hn
  split at hn
  · obtain ⟨m, hm, rfl⟩ := List.mem_map.1 hn
    split
    · exact Bool.and_false _
    · exact still m hm
  · split at hn
    · rcases List.mem_append.1 hn with hn | hn
      · exact still n hn
      · rw [List.mem_singleton.1 hn]
        exact Bool.and_false _
    · exact still n hn

/-- The record of agent `k` once AGENT_DETACH has revoked its holding in slot `i`. -/
def Directory.detachRevoked (d : Directory) (k : Agent) (t : Tag) (i : SlotId) (w : Window) : AgentRecord :=
  ((d.begun k t).agent k).revoked i ((d.begun k t).noticeFields i w.detachBase) (w.holding k) .none

theorem agent_begun (d : Directory) (k : Agent) (t : Tag) :
    (d.begun k t).agent k = { d.agent k with state := .detaching, detach := some { tag := t, forced := 0 } } := by
  rw [Directory.begun, agent_withAgent, if_pos rfl]

theorem detachRevoked_keeps (t : Tag) (held : w.holding k ≠ .none) :
    (d.detachRevoked k t i w).settings = (d.agent k).settings ∧
      (d.detachRevoked k t i w).holdingCount = (d.agent k).holdingCount - 1 ∧
      (d.detachRevoked k t i w).detach = some { tag := t, forced := 1 } ∧
      (d.detachRevoked k t i w).faultScore = (d.agent k).faultScore := by
  obtain ⟨_, settings, count, detach, score⟩ :=
    revoked_detaching (a := (d.begun k t).agent k) (p := { tag := t, forced := 0 }) i
      ((d.begun k t).noticeFields i w.detachBase) held (by rw [agent_begun]) (by rw [agent_begun])
  have begun := agent_begun d k t
  exact ⟨settings.trans (by rw [begun]), count.trans (by rw [begun]), detach, score.trans (by rw [begun])⟩

/-- The directory when the copy has been revoked, before the completion check. -/
def Directory.copyRevoked (d : Directory) (k : Agent) (t : Tag) (i : SlotId) (w : Window) : Directory :=
  (d.begun k t).asked i w.detachBase (w.detachContext k) k .none 0 .neither (raised (w.detachContext k).forcedCount 1)
    (d.detachRevoked k t i w)

/-- Force revokes a pinned copy of an agent that is not Outstanding (R101). -/
theorem mergeTarget_copyRevoked (t : Tag) (held : w.holding k ≠ .none) (pinned : w.pinCount k ≠ 0)
    (unasked : ∀ x, look (w.detachContext k).members k ≠ .outstanding x) :
    ((d.begun k t).recalledIn i w.detachBase (w.detachContext k)).mergeTarget now true i k .none = d.copyRevoked k t i w := by
  have pinned : w.detachBase.pinCount k ≠ 0 := pinned
  have held : w.detachBase.holding k ≠ .none := held
  rw [mergeTarget_recalledIn held]
  cases hm : look (w.detachContext k).members k with
  | neither => simp only [pinned, if_false, Bool.or_true, if_true]; exact recalledIn_revoke held
  | blocked => exact recalledIn_revoke held
  | outstanding x => exact absurd hm (unasked x)

theorem window_copyRevoked (d : Directory) (k : Agent) (t : Tag) (i : SlotId) (w : Window) :
    (d.copyRevoked k t i w).window i =
      some (w.detachBase.withCell (w.detachContext k) k .none (put w.pins k 0) .none .neither
        (raised (w.detachContext k).forcedCount 1)) := by
  simp [Directory.copyRevoked, Directory.asked, Window.detachBase]

theorem window_copyRevoked_other {j : SlotId} (h : j ≠ i) (t : Tag) : (d.copyRevoked k t i w).window j = d.window j := by
  rw [Directory.copyRevoked, Directory.asked, window_withAgent, window_withWindow, if_neg h]
  rfl

theorem agent_copyRevoked (d : Directory) (k : Agent) (t : Tag) (i : SlotId) (w : Window) :
    (d.copyRevoked k t i w).agent k = d.detachRevoked k t i w := agent_asked

/-- The window rewritten and the agent gone, whatever they were just before. -/
theorem gone_copyRevoked (t : Tag) (v : Window) (a : AgentRecord) :
    (withWindow (d.copyRevoked k t i w) i v).gone k a = (withWindow d i v).gone k a := by
  unfold Directory.gone Directory.copyRevoked Directory.asked Directory.begun
  rw [withAgent_withWindow, withWindow_withWindow, withAgent_withAgent, withAgent_withWindow, withAgent_withAgent]

/-- A forced AGENT_DETACH of an agent with one pinned copy. -/
structure PinsOneCopy (s : State) (e : Entry) (rest : List Entry) (k : Agent) (i : SlotId) (w : Window) : Prop where
  command : Command s .agentDetach e rest
  number : ((look e.params 0).extractLsb' 0 4).toNat = k.val
  online : Online s k
  unlisted : ∀ j, ∀ w ∈ s.directory.window j, ∀ x ∈ w.waiters, x.agent ≠ k
  unasked : ∀ j, ∀ w ∈ s.directory.window j, ∀ c ∈ w.context, look c.detachAgents k = false
  window : s.directory.window i = some w
  held : w.holding k ≠ .none
  others : ∀ j, j ≠ i → ∀ v ∈ s.directory.window j, v.holding k = .none
  forced : e.forced = true
  one : (s.directory.agent k).holdingCount = 1
  pinned : w.pinCount k ≠ 0

theorem PinsOneCopy.started (h : PinsOneCopy s e rest k i w) (quiet : ∀ x, look (w.detachContext k).members k ≠ .outstanding x) :
    detachStarted s e k = (s.directory.copyRevoked k e.tag i w).checkCompletion s.clock i := by
  rw [detachStarted_only h.unlisted h.others, handOverDetach_held (d := s.directory.begun k e.tag) e.forced h.window h.held, h.forced,
    mergeTarget_copyRevoked e.tag h.held h.pinned quiet]

/-! ### The window was OPEN -/

/-- The agent's record is no business of head service in a window where it neither waits nor holds. -/
theorem headService_withAgent (now : Tick) (a : AgentRecord) (hw : d.window i = some w) (waits : ∀ x ∈ w.waiters, x.agent ≠ k)
    (holds : w.holding k = .none) : (withAgent d k a).headService now i = withAgent (d.headService now i) k a := by
  refine (Directory.aside_modAgent i k fun _ => a).headService now (fun v hv x hx => ?_) fun v hv j hj => ?_
  · cases hw.symm.trans hv
    exact waits x hx
  · cases hw.symm.trans hv
    rintro rfl
    exact hj holds

theorem agent_headService (now : Tick) (hw : d.window i = some w) (waits : ∀ x ∈ w.waiters, x.agent ≠ k)
    (holds : w.holding k = .none) : (d.headService now i).agent k = d.agent k := by
  have same := headService_withAgent now (d.agent k) hw waits holds
  rw [withAgent_self] at same
  rw [same, agent_withAgent, if_pos rfl]

/-- The window after the revocation, its recall completed (R118). -/
def Window.copyTaken (w : Window) (k : Agent) (now : Tick) : Window :=
  { w with
    holdings := put w.holdings k .none, pins := put w.pins k 0, reservation := none
    idle := idleFrom w.fields.idleLimit now }

/-- The recall completes with the revocation: no other agent was asked. -/
theorem checkCompletion_copyRevoked (t : Tag) (held : w.holding k ≠ .none) (opened : w.context = none)
    (delivered : ∀ j, (d.agent j).holdsRecall i = false) :
    (d.copyRevoked k t i w).checkCompletion now i =
      (withWindow (d.copyRevoked k t i w) i (w.copyTaken k now)).headService now i := by
  have blank : w.detachContext k = (RecallContext.blank false).addCause (.detach k) := by
    rw [Window.detachContext, opened]
    rfl
  have base : w.detachBase = { w with reservation := none } := by rw [Window.detachBase, if_pos opened]
  have alone : ∀ j, ¬ InSet ((w.detachContext k).withCell k .none .neither (raised (w.detachContext k).forcedCount 1)) j :=
    fun j => by
      rw [blank]
      simp only [InSet, RecallContext.withCell, look_put, not_not]
      split
      · rfl
      · exact look_replicate _ _
  have silent : ∀ j, ((d.copyRevoked k t i w).agent j).holdsRecall i = false := fun j => by
    by_cases hj : j = k
    · subst hj
      have started : (revokedRecord ((d.begun j t).agent j) .none).holdsRecall i = false := by
        rw [agent_begun]
        exact delivered j
      rw [agent_copyRevoked, Directory.detachRevoked, revoked_eq _ _ _ held]
      exact holdsRecall_placeRevoked _ started
    · rw [Directory.copyRevoked, Directory.asked, Directory.begun]
      simp [hj, delivered]
  have plain : (w.detachContext k).retire = false ∧ (w.detachContext k).revision = false := by
    rw [blank]
    exact ⟨rfl, rfl⟩
  have window := window_copyRevoked d k t i w
  rw [base] at window
  rw [checkCompletion_ends now window rfl alone, Directory.complete, if_neg (by simp [RecallContext.withCell, plain.1]),
    if_neg (by simp [RecallContext.withCell, plain.2]), closeContext_delivered now window silent]
  have taken : w.copyTaken k now = { w.copyTaken k now with context := none } := by
    rw [← opened]
    rfl
  rw [taken]
  rfl

end Sys2Proof.Machine
end

section
/-! SUPPORT. A forced AGENT_DETACH of an agent with one pinned copy, from its taking to its record (R160, R161). -/

namespace Sys2Proof.Machine

open Sys2Proof.Safety

variable {s : State} {e : Entry} {rest : List Entry} {k : Agent} {i : SlotId} {w : Window} {c : RecallContext}

/-- The Holding Count of the agent is 0, and its record ready for the end, in any directory that holds its revoked record. -/
theorem PinsOneCopy.completes (h : PinsOneCopy s e rest k i w) {d : Directory}
    (started : detachStarted s e k = d) (agent : d.agent k = s.directory.detachRevoked k e.tag i w) :
    exec .agentDetach s = .next (taken s rest (d.completeDetach s.clock k)) := by
  obtain ⟨_, count, _⟩ := detachRevoked_keeps (d := s.directory) (i := i) e.tag h.held
  have empty : (d.agent k).holdingCount = 0 := by rw [agent, count, h.one]
  rw [exec_agentDetach h.command h.number h.online, started, if_pos empty]

/-- The end of that detach, once DETACH asks for the agent nowhere. -/
theorem PinsOneCopy.endDetach (h : PinsOneCopy s e rest k i w) {d : Directory}
    (agent : d.agent k = s.directory.detachRevoked k e.tag i w) (parked : d.parked = s.directory.parked) :
    (d.modAgent k fun a => { a.emptyNotices with state := .offline }).endDetach k .done =
      withRecord (d.gone k (s.directory.agent k)) (e.detachRecord k 1) := by
  obtain ⟨settings, count, detach, score⟩ := detachRevoked_keeps (d := s.directory) (i := i) e.tag h.held
  rw [← agent] at settings count detach score
  have ⟨_, kind, fresh⟩ := h.command
  exact endDetach_unparked kind (parked ▸ fresh) detach (by rw [count, h.one]) settings score

/-! ### In an OPEN window (R110, R118) -/

/-- The recall completes with the revocation, and the head of the window is served before the record is written. -/
theorem PinsOneCopy.exec_open (h : PinsOneCopy s e rest k i w) (opened : w.context = none)
    (delivered : ∀ j, (s.directory.agent j).holdsRecall i = false) :
    exec .agentDetach s =
      .next (taken s rest
        (withRecord
          (((withWindow s.directory i (w.copyTaken k s.clock)).gone k (s.directory.agent k)).headService s.clock i)
          (e.detachRecord k 1))) := by
  let x := withWindow (s.directory.copyRevoked k e.tag i w) i (w.copyTaken k s.clock)
  have started : detachStarted s e k = x.headService s.clock i := by
    rw [h.started fun y => by rw [Window.detachContext, opened]; exact fun g => by cases (look_replicate _ k).symm.trans g]
    exact checkCompletion_copyRevoked e.tag h.held opened delivered
  have window : x.window i = some (w.copyTaken k s.clock) := (window_withWindow _ i i _).trans (if_pos rfl)
  have waits : ∀ y ∈ (w.copyTaken k s.clock).waiters, y.agent ≠ k := h.unlisted i w h.window
  have holds : (w.copyTaken k s.clock).holding k = .none := look_put_same _ _ _
  have agent : (x.headService s.clock i).agent k = s.directory.detachRevoked k e.tag i w := by
    rw [agent_headService s.clock window waits holds]
    exact agent_copyRevoked ..
  have unasked : x.detachSlots k = [] := detachSlots_nil fun j v hv y hy => by
    by_cases hj : j = i
    · subst hj
      cases window.symm.trans hv
      cases opened.symm.trans hy
    · refine h.unasked j v ?_ y hy
      rw [Option.mem_def, window_withWindow, if_neg hj, window_copyRevoked_other hj] at hv
      exact hv
  have dismissed : (x.headService s.clock i).detachSlots k = [] :=
    List.eq_nil_iff_forall_not_mem.2 fun j hj =>
      List.not_mem_nil (unasked ▸ (Directory.steady_headService x s.clock i).detaches k j hj)
  have gone : (x.headService s.clock i).gone k (s.directory.agent k) =
      ((withWindow s.directory i (w.copyTaken k s.clock)).gone k (s.directory.agent k)).headService s.clock i := by
    rw [← gone_copyRevoked (w := w) e.tag]
    exact (headService_withAgent s.clock _ window waits holds).symm
  rw [h.completes started agent, completeDetach_eq, dismissed_nowhere dismissed,
    h.endDetach agent (Directory.headService_other s.clock i x).2, gone]

/-! ### In a running recall (R100, R101, R161) -/

/-- The context once the agent has been revoked and its detach has left (R109, R161). -/
def RecallContext.detachLeft (c : RecallContext) (k : Agent) : RecallContext :=
  { c with
    targets := put c.targets k none, members := put c.members k .neither
    forcedCount := BitVec.ofNat 8 (min 255 (c.forcedCount.toNat + 1)) }

/-- The window then. -/
def Window.detachLeft (w : Window) (c : RecallContext) (k : Agent) : Window :=
  { w with
    holdings := put w.holdings k .none, pins := put w.pins k 0
    context := some (c.detachLeft k) }

/-- The agent's target and its place among Detach Agents go; what is left is the context without the DETACH. -/
theorem dismiss_withCell (unasked : look c.detachAgents k = false) :
    ((c.addCause (.detach k)).withCell k .none .neither (raised c.forcedCount 1)).dismiss k true = c.detachLeft k := by
  have back : put c.detachAgents k false = c.detachAgents := by
    rw [← unasked]
    exact put_look _ _
  simp only [RecallContext.dismiss, RecallContext.withCell, RecallContext.addCause, RecallContext.setDetachAgent,
    RecallContext.setTarget, RecallContext.detachLeft, if_true, put_put]
  rw [back]
  rfl

theorem causeless_detachLeft (other : OtherCause c k) : (c.detachLeft k).causeless = false := by
  rcases other with on | on | on | on | ⟨j, _, on⟩
  · simp [RecallContext.causeless, RecallContext.detachLeft, on]
  · simp [RecallContext.causeless, RecallContext.detachLeft, on]
  · simp [RecallContext.causeless, RecallContext.detachLeft, on]
  · simp [RecallContext.causeless, RecallContext.detachLeft, on]
  · exact causeless_of_detach (k := j) on

/-- DETACH asks for the agent in one window alone. -/
theorem detachSlots_one {d : Directory} (h : ∀ j, j ∈ d.detachSlots k ↔ j = i) : d.detachSlots k = [i] := by
  have only : ∀ j, ((d.context j).any fun c => look c.detachAgents k) = (j == i) := fun j => by
    rw [Bool.eq_iff_iff, beq_iff_eq, ← h j, mem_detachSlots, Option.any_eq_true]
  rw [Directory.detachSlots, List.filter_congr fun j _ => only j, List.filter_beq,
    List.count_eq_one_of_mem (List.nodup_finRange 128) (List.mem_finRange i), List.replicate_one]

/-- The recall goes on for the others; the detach leaves it. -/
theorem PinsOneCopy.exec_recalling (h : PinsOneCopy s e rest k i w) (running : w.context = some c) {j : Agent} (other : j ≠ k)
    (waits : InSet c j) (cause : OtherCause c k) (unasked : ∀ x, look c.members k ≠ .outstanding x) :
    exec .agentDetach s =
      .next (taken s rest
        (withRecord ((withWindow s.directory i (w.detachLeft c k)).gone k (s.directory.agent k)) (e.detachRecord k 1))) := by
  have context : w.detachContext k = c.addCause (.detach k) := by rw [Window.detachContext, running]; rfl
  have base : w.detachBase = w := by rw [Window.detachBase, running, if_neg (by simp), ← running]
  let x := s.directory.copyRevoked k e.tag i w
  have window : x.window i = some (w.withCell (c.addCause (.detach k)) k .none (put w.pins k 0) .none .neither
      (raised c.forcedCount 1)) := by
    have g := window_copyRevoked s.directory k e.tag i w
    rw [context, base] at g
    exact g
  have member : look (c.addCause (.detach k)).members j = look c.members j := rfl
  have started : detachStarted s e k = x := by
    rw [h.started (context ▸ unasked)]
    refine checkCompletion_waits s.clock window rfl ⟨j, ?_⟩
    simpa [InSet, RecallContext.withCell, other, member] using waits
  have agent : x.agent k = s.directory.detachRevoked k e.tag i w := agent_copyRevoked ..
  have slots : x.detachSlots k = [i] := detachSlots_one fun a => by
    rw [mem_detachSlots]
    by_cases ha : a = i
    · subst ha
      refine ⟨fun _ => rfl, fun _ => ⟨_, by rw [context_eq, window]; rfl, ?_⟩⟩
      exact look_put_same _ _ _
    · refine ⟨fun ⟨y, hy, asks⟩ => ?_, fun g => absurd g ha⟩
      rw [context_eq, window_copyRevoked_other ha] at hy
      obtain ⟨v, hv, hy⟩ := Option.bind_eq_some_iff.1 hy
      rw [h.unasked a v hv y hy] at asks
      cases asks
  have dismissed : x.dismissed s.clock k = withWindow x i (w.detachLeft c k) := by
    have left : x.modContext i (·.dismiss k true) = withWindow x i (w.detachLeft c k) := by
      rw [modContext_eq _ window rfl, dismiss_withCell (h.unasked i w h.window c running)]
      rfl
    rw [Directory.dismissed, slots]
    show (x.modContext i (·.dismiss k true)).afterCauseLeft s.clock i = _
    rw [left, Directory.afterCauseLeft, context_eq, window_withWindow, if_pos rfl]
    show (if (c.detachLeft k).causeless then _ else _) = _
    rw [causeless_detachLeft cause]
    rfl
  rw [h.completes started agent, completeDetach_eq, dismissed,
    h.endDetach (d := withWindow x i (w.detachLeft c k)) agent rfl, gone_copyRevoked]

/-! ### AGENT_DETACH -/

/-- Settles O52: the four ends of a parked detach, the taking with its round through the windows, and the plain cases of an agent
that waits nowhere. -/
theorem detachAsksForHoldings : Obligations.DetachAsksForHoldings := by
  refine ⟨parkedDetachEnds, fun s e rest k command number online => ⟨agentDetach_asks command number online,
    fun unlisted unasked => ⟨agentDetach_idle command number online unlisted unasked,
      fun i w hw held others => ⟨fun opened counted unpinned =>
        agentDetach_recalls command number online unlisted hw held others opened counted unpinned,
        fun forced one pinned => ?_⟩⟩⟩⟩
  have h : PinsOneCopy s e rest k i w :=
    { command, number, online, unlisted, unasked, window := hw, held, others, forced, one, pinned }
  refine ⟨fun opened delivered => ⟨h.exec_open opened delivered, fun nil => ?_⟩, fun c j running other waits cause quiet =>
    h.exec_recalling running other waits cause quiet⟩
  exact headService_noWaiters (w := w.copyTaken k s.clock) s.clock ((window_withWindow _ i i _).trans (if_pos rfl)) nil

end Sys2Proof.Machine
end
